-- ==== Sys2Proof/Word.lean ====
section
/-! DEFINITION. The units the block moves (20_memory.md R72) and exact reals as plain data
(00_scope.md R13). -/

namespace Sys2Proof

/-- `u8`: a byte of the host link or of an air frame (R13, R72). -/
abbrev Byte := BitVec 8

/-- `i16`: one signed 16-bit audio sample (R13, R75). -/
abbrev Sample := BitVec 16

/-- One hexadecimal digit of a packed event (30_encoding.md R121). -/
abbrev Nibble := BitVec 4

/-- The 6-bit field of an air-frame header: a length or a fragment id (R111). -/
abbrev Field := BitVec 6

/-- A HostPacket: "an ordered byte sequence" (R20). -/
abbrev Packet := List Byte

/-- An air frame: byte 0 first (R74). -/
abbrev Frame := List Byte

/-- An irrational term of an exact real: `coef` times `10 * log10(num / den)`, where `log` gives one, times the named
reals of `names`. -/
structure Term where
  coef : ℚ
  log : Option (Nat × Nat)
  names : List Nat
deriving DecidableEq, Repr

/-- An energy or a threshold in dB: an exact real (R13), written as a rational plus irrational terms. The logarithms are
those of the default ENERGY_DB (R181); a real that is neither rational nor such a sum has a name. Log entry 9. -/
structure Energy where
  const : ℚ
  terms : List Term
deriving DecidableEq, Repr, Inhabited

/-- A rational energy. -/
abbrev Energy.rat (q : ℚ) : Energy := { const := q, terms := [] }

/-- The real that the number `k` names. -/
abbrev Energy.named (k : Nat) : Energy := { const := 0, terms := [{ coef := 1, log := none, names := [k] }] }

/-- ALPHA: an exact real (R13), rational or named. -/
inductive Weight where
  | rat (q : ℚ)
  | named (k : Nat)
deriving DecidableEq, Repr

end Sys2Proof
end

