-- ==== Sys2Proof/Config.lean ====
section
/-! DEFINITION. The configuration record of 00_scope.md R8, R10 to R12 as plain data, the reference configuration of
95_test_vectors.md, and the free values: opaque constants, which nothing in Lean can evaluate. -/

namespace Sys2Proof

/-- TXQ_POLICY (R8): what happens when the queue is full. -/
inductive TxqPolicy where
  | block
  | dropOldest
deriving DecidableEq, Repr

/-- CRC_ORDER (R11, R74): the order of the two CRC bytes. -/
inductive CrcOrder where
  | big
  | little
deriving DecidableEq, Repr

/-- CRC16 (R11, R211): the modem's primitive is a parameter. It is the spec's default, or the `n`-th of the functions of
which the model knows nothing. Log entry 10. -/
inductive CrcKind where
  | ccittFalse
  | external (n : Nat)
deriving DecidableEq, Repr

/-- ENERGY_DB (R10, R181): an OPEN parameter. It is the default that R181 offers, the mean-square power in dB relative to
16-bit full scale, or the `n`-th of the functions of which the model knows nothing but the law of R181. Log entry 8. -/
inductive EnergyKind where
  | meanSquare
  | external (n : Nat)
deriving DecidableEq, Repr

/-- The four 2-bit tag codes (R11, R112). -/
structure Tags where
  single : BitVec 2
  begin1 : BitVec 2
  frag : BitVec 2
  end1 : BitVec 2
deriving DecidableEq, Repr

/-- The default tag codes (R112). -/
def Tags.default : Tags := { single := 0, begin1 := 1, frag := 2, end1 := 3 }

/-- "the four codes must be distinct" (R11). -/
def Tags.distinct (t : Tags) : Bool :=
  t.single ≠ t.begin1 && t.single ≠ t.frag && t.single ≠ t.end1 && t.begin1 ≠ t.frag && t.begin1 ≠ t.end1
    && t.frag ≠ t.end1

/-- The configuration arguments of BOOT: every field of R8, R10, R11 and R12 that is not a modem answer (R371). -/
structure Args where
  hostMtu : Nat
  txqDepth : Nat
  txqPolicy : TxqPolicy
  floorDb : Energy
  alpha : Weight
  upperDb : Energy
  lowerDb : Energy
  dwellSamples : Nat
  energyFn : EnergyKind
  leadInSamples : Nat
  leadOutSamples : Nat
  channelWaitLimit : Option Nat
  /-- SAMPLE_RATE: "timing only, no rule depends on it" (R10). -/
  sampleRate : Nat
  /-- RX_BLOCK_SAMPLES: "no rule depends on it" (R10). -/
  rxBlockSamples : Nat
  /-- POLL_INTERVAL: "timing only, not modelled" (R10, R390). -/
  pollInterval : Nat
  tags : Tags
  crc : CrcKind
  crcOrder : CrcOrder
  /-- MODEM_MODE (R12): its values are named by numbers, log entry 26. -/
  modemMode : Nat
deriving DecidableEq, Repr

/-- The configuration record `s.cfg` (R31): the arguments and the modem's boot-time answers. -/
structure Cfg extends Args where
  bitsPerFrame : Nat
  maxTxSamples : Nat
  maxRxSamples : Nat
deriving DecidableEq, Repr

/-- The arguments of configuration C0 (95_test_vectors.md section 0): the spec's own reference configuration.
DESIGN CHOICE where the field is OPEN: log entry 2. -/
def Args.reference : Args where
  hostMtu := 64
  txqDepth := 1
  txqPolicy := .block
  floorDb := .rat (-60)
  alpha := .rat (1 / 4)
  upperDb := .rat (-30)
  lowerDb := .rat (-40)
  dwellSamples := 160
  energyFn := .meanSquare
  leadInSamples := 400
  leadOutSamples := 160
  channelWaitLimit := none
  sampleRate := 8000
  rxBlockSamples := 80
  pollInterval := 0
  tags := Tags.default
  crc := .ccittFalse
  crcOrder := .big
  modemMode := 0

/-- Configuration C0 with its modem answers (95_test_vectors.md section 0, vector B-1). -/
def Cfg.reference : Cfg :=
  { Args.reference with bitsPerFrame := 104, maxTxSamples := 1000, maxRxSamples := 400 }

/-! Exact reals (R13): what an `Energy` denotes, once the named reals have values. -/

/-- `10 * log10(num / den)`. -/
noncomputable def dbValue (num den : Nat) : ℝ := 10 * Real.logb 10 (num / den)

/-- The logarithm of a term, 1 where it has none. -/
noncomputable def logValue : Option (Nat × Nat) → ℝ
  | none => 1
  | some (num, den) => dbValue num den

noncomputable def Term.valWith (ρ : Nat → ℝ) (t : Term) : ℝ :=
  t.coef * logValue t.log * (t.names.map ρ).prod

noncomputable def Energy.valWith (ρ : Nat → ℝ) (e : Energy) : ℝ := e.const + (e.terms.map (Term.valWith ρ)).sum

noncomputable def Weight.valWith (ρ : Nat → ℝ) : Weight → ℝ
  | .rat q => q
  | .named k => ρ k

/-- What is known of the named reals: which exact reals are positive under some assignment of values to the names. The
constructor `zeros`, in which every name is 0, is there because an opaque constant must have some inhabitant. -/
inductive RealOrder where
  | zeros
  | given (pos : Energy → Bool) (law : ∃ ρ : Nat → ℝ, ∀ d, pos d = true ↔ 0 < d.valWith ρ)
deriving Inhabited

/-- The values of the names. -/
noncomputable def RealOrder.value : RealOrder → Nat → ℝ
  | .zeros => fun _ => 0
  | .given _ law => Classical.choose law

/-- The order of the named reals: free, log entry 9. -/
opaque Config.realOrder : RealOrder

/-- The real that an energy denotes. -/
noncomputable def Energy.val (e : Energy) : ℝ := e.valWith Config.realOrder.value

/-- The real that a weight denotes. -/
noncomputable def Weight.val (w : Weight) : ℝ := w.valWith Config.realOrder.value

/-! Parameters that are functions (R10, R11): one opaque family for each, indexed by the name that `Args` holds. -/

/-- An ENERGY_DB that is not the default, before the clamp of R181. -/
opaque Config.energyDb : Nat → List Sample → Energy

/-- CRC16 where it is not the default (R211). -/
opaque Config.crc16 : Nat → List Byte → BitVec 16

/-! Draws (R18): the free answer of each, applied to the counter `drawn` of the state (log entry 6). -/

/-- `modem_open`, `ptt_acquire`, `audio_out_acquire`, `audio_in_acquire` (R371): acquired or not. -/
opaque Config.freeModemOpen : Nat → Bool
opaque Config.freePttAcquire : Nat → Bool
opaque Config.freeAudioOut : Nat → Bool
opaque Config.freeAudioIn : Nat → Bool

/-- `bits_per_frame`, `max_tx_samples`, `max_rx_samples` (R360). -/
opaque Config.freeBitsPerFrame : Nat → Nat
opaque Config.freeMaxTx : Nat → Nat
opaque Config.freeMaxRx : Nat → Nat

/-- `next_required_sample_count` (R362), brought into the contract where it is drawn. -/
opaque Config.freeNin : Nat → Nat

/-- `samples_to_frame` (R362). -/
opaque Config.freeDemod : Nat → List Sample → Option Frame

/-- `preamble_to_samples`, `postamble_to_samples`, `frame_to_samples` (R360). -/
opaque Config.freePre : Nat → List Sample
opaque Config.freePost : Nat → List Sample
opaque Config.freeMod : Nat → Frame → List Sample

/-- `audio_write` and `drained` (R361). -/
opaque Config.freeWrite : Nat → Bool
opaque Config.freeDrained : Nat → Bool

end Sys2Proof
end

