-- ==== Sys2Proof/Machine/Reals.lean ====
section
/-! DEFINITION. Exact real arithmetic on plain data (00_scope.md R13): sums, products with a weight, and the strict order.
Rational values and sums of logarithms of rationals are compared by exact rational arithmetic, values with named reals by
the opaque order of Config. -/

namespace Sys2Proof.Machine

/-- A term is added to a list of terms with distinct logarithms and names. -/
def addTerm (t : Term) : List Term → List Term
  | [] => if t.coef = 0 then [] else [t]
  | u :: us =>
    if u.log = t.log ∧ u.names = t.names then
      if u.coef + t.coef = 0 then us else { u with coef := u.coef + t.coef } :: us
    else u :: addTerm t us

/-- The sum of two reals. -/
def addReal (a b : Energy) : Energy := { const := a.const + b.const, terms := b.terms.foldr addTerm a.terms }

/-- The product with a rational. -/
def scaleReal (q : ℚ) (a : Energy) : Energy :=
  if q = 0 then .rat 0
  else { const := q * a.const, terms := a.terms.map fun t => { t with coef := q * t.coef } }

/-- The product with a named real. -/
def timesNamed (k : Nat) (a : Energy) : Energy :=
  { const := 0
    terms := addTerm { coef := a.const, log := none, names := [k] }
      (a.terms.map fun t => { t with names := k :: t.names }) }

/-- The product with a weight. -/
def weigh (w : Weight) (a : Energy) : Energy :=
  match w with
  | .rat q => scaleReal q a
  | .named k => timesNamed k a

/-- A weight as a real. -/
def weightReal (w : Weight) : Energy := weigh w (.rat 1)

/-- The difference of two reals. -/
def subReal (a b : Energy) : Energy := addReal a (scaleReal (-1) b)

/-- A common denominator of the coefficients. -/
def commonDen (a : Energy) : Nat := a.const.den * (a.terms.map (·.coef.den)).prod

/-- Ten to the power of `n` times a term without names, for an `n` that clears its denominator; the logarithm of zero is
zero. -/
def termPower (n : Nat) (t : Term) : ℚ :=
  match t.log with
  | none => 10 ^ (t.coef * n).num
  | some (num, den) => if num = 0 ∨ den = 0 then 1 else ((num : ℚ) / den) ^ (10 * t.coef * n).num

/-- A sum of logarithms is positive when the product of the powers exceeds 1. -/
def exactPos (a : Energy) : Bool :=
  1 < (10 : ℚ) ^ (a.const * commonDen a).num * (a.terms.map (termPower (commonDen a))).prod

/-- The terms without names. -/
def unnamed (a : Energy) : Energy := { a with terms := a.terms.filter (·.names = []) }

/-- A real is positive. -/
def posReal (a : Energy) : Bool :=
  if a.terms = [] then 0 < a.const
  else if unnamed a = a then exactPos a
  else
    match Config.realOrder with
    | .zeros => exactPos (unnamed a)
    | .given pos _ => pos a

/-- The strict order of the reals. -/
def ltReal (a b : Energy) : Bool := posReal (subReal b a)

/-- The larger of two reals. -/
def maxReal (a b : Energy) : Energy := if ltReal a b then b else a

end Sys2Proof.Machine
end

