-- ==== Sys2Proof/Syntax.lean ====
section
/-! DEFINITION. The instructions of spec/opcode_table.json, one constructor per row, and the form in which the
environment presents them to the block. -/

namespace Sys2Proof

/-- The four air-frame kinds SINGLE, BEGIN, FRAG, END (R112). -/
inductive AirKind where
  | single
  | begin1
  | frag
  | end1
deriving DecidableEq, Repr

/-- What a received frame brings beside its header: bytes 1 to F - 1 of the frame, payload and CRC (R110), and the NIN
samples of the RX_BLOCK that demodulates it (R123). -/
structure Received where
  rest : List Byte
  blk : List Sample
deriving DecidableEq, Repr

/-- The instructions: seven events (R120), four byte classes of the host wire (R103) and four kinds of air frame
(R111). The last eight are no events of their own (R120): a byte class is the HOST_BYTE of its byte (R103), an air frame
the pseudo-event RX_FRAME (R123). Answers of the environment are no operands (R124), but for those that R123 writes into
RX_FRAME. -/
inductive Instr where
  /-- BOOT with its configuration arguments (R371). -/
  | boot (args : Args)
  /-- HOST_BYTE b (R140). -/
  | hostByte (b : Byte)
  /-- TX_STEP (R260). -/
  | txStep
  /-- TX_CANCEL (R274, R275). -/
  | txCancel
  /-- RX_BLOCK blk (R300). -/
  | rxBlock (blk : List Sample)
  /-- MAY_TX (R188). -/
  | mayTx
  /-- PTT_STATUS (R363). -/
  | pttStatus
  /-- HOST.DELIM: the wire byte 0x7E (R142, R143). -/
  | hostDelim
  /-- HOST.ESC: the wire byte 0x7D with no escape pending (R146). -/
  | hostEsc
  /-- HOST.ESCAPED: the byte after an escape (R147). -/
  | hostEscaped (b : Byte)
  /-- HOST.DATA: any other wire byte (R144). -/
  | hostData (b : Byte)
  /-- AIR.SINGLE: RX_FRAME of a SINGLE frame with length `len` (R222). -/
  | airSingle (len : Field) (rcv : Received)
  /-- AIR.BEGIN: RX_FRAME of a BEGIN frame with fragment id `fid` (R223). -/
  | airBegin (fid : Field) (rcv : Received)
  /-- AIR.FRAG: RX_FRAME of a FRAG frame with fragment id `fid` (R224, R225). -/
  | airFrag (fid : Field) (rcv : Received)
  /-- AIR.END: RX_FRAME of an END frame with tail length `len` (R226, R227). -/
  | airEnd (len : Field) (rcv : Received)
deriving DecidableEq, Repr

/-- What an event carries out of band (R121, R371): nothing, BOOT's arguments, or RX_BLOCK's samples. -/
inductive Oob where
  | nothing
  | args (a : Args)
  | samples (blk : List Sample)
deriving DecidableEq, Repr

/-- One input as the environment presents it, in one of the block's three encodings (30_encoding.md): a packed event
(R121), a byte of the host wire (R103), or an RX_FRAME, which is an air frame, header byte first (R110), with the samples
of its RX_BLOCK (R123). Log entries 1 and 12. A byte list with no header byte is no input (log entry 20): as an answer of
DEMOD it is dropped (R221). -/
inductive Input where
  | event (digits : List Nibble) (oob : Oob)
  | wire (b : Byte)
  | air (header : Byte) (rest : List Byte) (blk : List Sample)
deriving DecidableEq, Repr

/-- What decoding depends on besides the input: the tag codes of the configuration (R112) and whether an escape is
pending (R103). -/
structure DecodeCtx where
  tags : Tags
  escape : Bool
deriving DecidableEq, Repr

end Sys2Proof
end

