-- ==== Sys2Proof/WellFormed.lean ====
section
/-! DEFINITION. Which instructions the encodings of 30_encoding.md can express in a given decoding context. -/

namespace Sys2Proof

/-- The rest of an air frame after its header: `F - 1` bytes for some admitted `4 ≤ F ≤ 66` (R8, R110). -/
def restOk (rest : List Byte) : Bool := 3 ≤ rest.length && rest.length ≤ 65

/-- An instruction is well formed in a context when its operands are what its row of the table admits there. The byte
classes follow the priority of R103: a DELIM is 0x7E, an ESCAPED byte is any other byte while an escape is pending, an
ESC is 0x7D and a DATA byte is any other byte while none is. The block of an RX_FRAME has the `NIN ≥ 1` samples that its
draw asks for (R123, R362). -/
def Instr.wf (c : DecodeCtx) : Instr → Bool
  | .boot _ => true
  | .hostByte _ => true
  | .txStep => true
  | .txCancel => true
  | .rxBlock _ => true
  | .mayTx => true
  | .pttStatus => true
  | .hostDelim => true
  | .hostEsc => !c.escape
  | .hostEscaped b => c.escape && b ≠ 0x7E
  | .hostData b => !c.escape && b ≠ 0x7E && b ≠ 0x7D
  | .airSingle _ rcv => restOk rcv.rest && rcv.blk ≠ []
  | .airBegin _ rcv => restOk rcv.rest && rcv.blk ≠ []
  | .airFrag _ rcv => restOk rcv.rest && rcv.blk ≠ []
  | .airEnd _ rcv => restOk rcv.rest && rcv.blk ≠ []

end Sys2Proof
end

