-- ==== Sys2Proof/Decode.lean ====
section
/-! DEFINITION. The three encodings of 30_encoding.md: packed events (R121), host wire bytes (R101, R103) and air-frame
headers (R110 to R112). Decoding is total and rejects by name; the encoder follows it. -/

namespace Sys2Proof

/-- DELIM (R100). -/
def DELIM : Byte := 0x7E
/-- ESC (R100). -/
def ESC : Byte := 0x7D
/-- MASK (R100). -/
def MASK : Byte := 0x20

/-- Why a packed event is no event: R121 refuses it. Wire bytes and air frames always decode. Log entry 20. -/
inductive DecodeError where
  /-- An event code 0x7 to 0xF: "a trace using them is refused" (R121). -/
  | unusedCode
  /-- A packed event with too few or too many digits for its code (R121). -/
  | wrongLength
  /-- An event whose out-of-band operand is missing or is not the one its rule names (R120, R121). -/
  | wrongOperand
deriving DecidableEq, Repr

/-- `F`, the air-frame size in bytes (R8, R372). -/
def airF (c : Cfg) : Nat := c.bitsPerFrame / 8

/-- `P`, the payload bytes of an air frame (R8, R372). -/
def airP (c : Cfg) : Nat := airF c - 3

/-- The tag field of a header, bits 7:6 (R111). -/
def headerTag (h : Byte) : BitVec 2 := h.extractLsb' 6 2

/-- The length or id field of a header, bits 5:0 (R111). -/
def headerField (h : Byte) : Field := h.extractLsb' 0 6

/-- The kind a tag code names, tested in the order of R220. Four distinct codes leave no fifth (R115); for codes that
are not distinct see log entry 19. -/
def kindOfTag (t : Tags) (code : BitVec 2) : AirKind :=
  if code = t.single then .single
  else if code = t.begin1 then .begin1
  else if code = t.frag then .frag
  else .end1

/-- The tag code of a kind (R112). -/
def tagOfKind (t : Tags) : AirKind → BitVec 2
  | .single => t.single
  | .begin1 => t.begin1
  | .frag => t.frag
  | .end1 => t.end1

/-- `header = (tag << 6) | fld` (R111). -/
def airHeader (t : Tags) (k : AirKind) (fld : Field) : Byte := tagOfKind t k ++ fld

/-- An event that has neither a further digit nor an out-of-band operand. -/
def bareEvent (rest : List Nibble) (oob : Oob) (i : Instr) : Except DecodeError Instr :=
  match rest with
  | [] => if oob = .nothing then .ok i else .error .wrongOperand
  | _ :: _ => .error .wrongLength

/-- BOOT with its arguments (R371). -/
def bootEvent (rest : List Nibble) (oob : Oob) : Except DecodeError Instr :=
  match rest with
  | [] =>
    match oob with
    | .args a => .ok (.boot a)
    | _ => .error .wrongOperand
  | _ :: _ => .error .wrongLength

/-- RX_BLOCK "carries its block out of band" (R121). -/
def rxBlockEvent (rest : List Nibble) (oob : Oob) : Except DecodeError Instr :=
  match rest with
  | [] =>
    match oob with
    | .samples blk => .ok (.rxBlock blk)
    | _ => .error .wrongOperand
  | _ :: _ => .error .wrongLength

/-- HOST_BYTE: "12 bits: code, then the byte" (R121). -/
def hostByteEvent (rest : List Nibble) (oob : Oob) : Except DecodeError Instr :=
  match rest with
  | [hi, lo] => if oob = .nothing then .ok (.hostByte (hi ++ lo)) else .error .wrongOperand
  | _ => .error .wrongLength

/-- A packed event, its code first (R121). -/
def decodeEvent (digits : List Nibble) (oob : Oob) : Except DecodeError Instr :=
  match digits with
  | [] => .error .wrongLength
  | code :: rest =>
    if code = 0x0 then bootEvent rest oob
    else if code = 0x1 then hostByteEvent rest oob
    else if code = 0x2 then bareEvent rest oob .txStep
    else if code = 0x3 then bareEvent rest oob .txCancel
    else if code = 0x4 then rxBlockEvent rest oob
    else if code = 0x5 then bareEvent rest oob .mayTx
    else if code = 0x6 then bareEvent rest oob .pttStatus
    else .error .unusedCode

/-- The class of a host wire byte, in the priority order of R103. -/
def decodeWire (escape : Bool) (b : Byte) : Instr :=
  if b = DELIM then .hostDelim
  else if escape then .hostEscaped b
  else if b = ESC then .hostEsc
  else .hostData b

/-- An air frame by its header byte (R111, R112). -/
def decodeAir (t : Tags) (header : Byte) (rest : List Byte) (blk : List Sample) : Instr :=
  match kindOfTag t (headerTag header) with
  | .single => .airSingle (headerField header) { rest := rest, blk := blk }
  | .begin1 => .airBegin (headerField header) { rest := rest, blk := blk }
  | .frag => .airFrag (headerField header) { rest := rest, blk := blk }
  | .end1 => .airEnd (headerField header) { rest := rest, blk := blk }

/-- The instruction an input stands for. -/
def decodeInput (c : DecodeCtx) : Input → Except DecodeError Instr
  | .event digits oob => decodeEvent digits oob
  | .wire b => .ok (decodeWire c.escape b)
  | .air header rest blk => .ok (decodeAir c.tags header rest blk)

/-- The input that stands for an instruction, from the same tables (R101, R103, R111, R112, R121). -/
def encode (t : Tags) : Instr → Input
  | .boot a => .event [0x0] (.args a)
  | .hostByte b => .event [0x1, b.extractLsb' 4 4, b.extractLsb' 0 4] .nothing
  | .txStep => .event [0x2] .nothing
  | .txCancel => .event [0x3] .nothing
  | .rxBlock blk => .event [0x4] (.samples blk)
  | .mayTx => .event [0x5] .nothing
  | .pttStatus => .event [0x6] .nothing
  | .hostDelim => .wire DELIM
  | .hostEsc => .wire ESC
  | .hostEscaped b => .wire b
  | .hostData b => .wire b
  | .airSingle len rcv => .air (airHeader t .single len) rcv.rest rcv.blk
  | .airBegin fid rcv => .air (airHeader t .begin1 fid) rcv.rest rcv.blk
  | .airFrag fid rcv => .air (airHeader t .frag fid) rcv.rest rcv.blk
  | .airEnd len rcv => .air (airHeader t .end1 len) rcv.rest rcv.blk

/-- The out-of-band operand a table word needs, for the configuration in force: BOOT gets the arguments of `c` again,
RX_BLOCK an empty block (log entry 13). -/
def tableOob (c : Cfg) (code : Nat) : Oob :=
  if code = 0 then .args c.toArgs
  else if code = 4 then .samples []
  else .nothing

/-- The input whose bits are the number `w`, as spec/opcode_table.json numbers them. The table's three formats overlap
in eight bits; which one is meant is log entry 13. An air frame has zeros after its header, up to `F` bytes, and comes
with a block of one silent sample. -/
def tableInput (c : Cfg) (nbits w : Nat) : Input :=
  if 8 < nbits then
    if w < 4096 then .event [BitVec.ofNat 4 (w / 256), BitVec.ofNat 4 (w / 16), BitVec.ofNat 4 w] .nothing
    else .event [] .nothing
  else if w < 7 ∧ w ≠ 1 then .event [BitVec.ofNat 4 w] (tableOob c w)
  else if w = 0x7E ∨ w = 0x7D then .wire (BitVec.ofNat 8 w)
  else .air (BitVec.ofNat 8 w) (List.replicate (airF c - 1) 0) [0]

/-- The instruction the decoder reads from a table word, in the reference configuration with no escape pending. -/
def decodeTableWord (nbits w : Nat) : Option Instr :=
  match decodeInput { tags := Tags.default, escape := false } (tableInput Cfg.reference nbits w) with
  | .ok i => some i
  | .error _ => none

end Sys2Proof
end

