-- ==== Sys2Proof/Machine/State.lean ====
section
/-! DEFINITION. The block state of 10_state.md as plain data, the reasons a step can stop, and the state after reset. -/

namespace Sys2Proof.Machine

/-- Why the machine stops with a fault. -/
inductive Fault where
  /-- FRAME_EMIT with `tx_index` past the last frame: R268 names no frame to emit. Raised by TX_STEP. Safe: the
  invariant of Safety.lean rules it out, so no run from reset meets it (log entry 16). -/
  | noFrameLeft
deriving DecidableEq, Repr

/-- A boundary whose contract an answer breaks. -/
inductive Boundary where
  | nin
  | modulator
  | energy
deriving DecidableEq, Repr

/-- Why the model has no run for an input. -/
inductive Refusal where
  /-- An instruction with no meaning yet. Raised by exec. Safe. -/
  | notModelled (mnemonic : String)
  /-- An input that is no instruction (R121). Raised by step. Safe. -/
  | notAnInstruction (e : DecodeError)
  /-- An event before BOOT: "A model rejects a trace that breaks this" (R377). Raised by every event but BOOT. Safe. -/
  | beforeBoot
  /-- Arguments that break a well-formedness condition of R8, R10 or R11: "The model has no run for it" (R31). Raised
  by BOOT. Safe. -/
  | configuration
  /-- Modem answers outside the admitted geometry (R372). Raised by BOOT. Safe. -/
  | geometry
  /-- An answer of the environment outside its contract (R360, R362, I-12). Raised by RX_BLOCK and TX_STEP. Safe. -/
  | contract (b : Boundary)
deriving DecidableEq, Repr

/-- HostFrameDecodeState (R34 to R36). -/
structure HostDecode where
  inFrame : Bool
  escape : Bool
  buf : List Byte
deriving DecidableEq, Repr

/-- ChannelEnergyState (R37 to R39). -/
structure ChannelEnergy where
  smoothed : Energy
  quiet : Nat
  allowed : Bool
deriving DecidableEq, Repr

/-- ReassemblyState (R40 to R42). -/
structure Reassembly where
  lastTag : AirKind
  lastId : BitVec 8
  acc : List Byte
deriving DecidableEq, Repr

/-- The phases of the transmit machine (R43). -/
inductive Phase where
  | idle
  | waitChannelFree
  | keyedLeadIn
  | preamble
  | frameEmit
  | postamble
  | leadOut
  | drain
  | keyDown
deriving DecidableEq, Repr

/-- The TransmitSequencer state (R43 to R47). -/
structure Transmit where
  phase : Phase
  frames : List Frame
  index : Nat
  polls : Nat
  queue : List Packet
deriving DecidableEq, Repr

/-- The annotation of an audio action: which phase wrote it (R51). -/
inductive AudioKind where
  | leadIn
  | preamble
  | frame
  | postamble
  | leadOut
deriving DecidableEq, Repr

/-- An external action of the block (R51). -/
inductive Action where
  | ptt (v : Bool)
  | audio (k : AudioKind) (samples : List Sample)
deriving DecidableEq, Repr

/-- What boot can fail to acquire (R333). -/
inductive FatalCause where
  | audioIn
  | audioOut
  | ptt
  | modem
deriving DecidableEq, Repr

/-- A record of a reported condition with its info fields, in the order of the codes of R330. -/
inductive LogRecord where
  | fragLoss (kind : AirKind) (got : Nat) (lastTag : AirKind) (lastId : Nat)
  | hostOverflow (len : Nat)
  | resource (which : FatalCause)
  | txAudioFail (phase : Phase) (index : Nat)
  | tooLong (len : Nat)
  | badLength (kind : AirKind) (fld : Nat)
  | badFrameSize (len : Nat)
  | txqDrop (len : Nat)
  | waitLimit (m : Nat)
  | cancel (phase : Phase) (queued : Nat)
deriving DecidableEq, Repr

/-- The result a query returns: R188, R363. The model's own record, log entry 14. -/
inductive Reply where
  | mayTx (v : Bool)
  | pttStatus (v : Bool)
deriving DecidableEq, Repr

/-- The environment's answers to the coming draws, one queue per kind, each oldest first (R18, R122). The model's own
record of what the oracles will say; an empty queue means a free value (log entry 6). -/
structure Env where
  modemOpen : List Bool
  bitsPerFrame : List Nat
  maxTx : List Nat
  maxRx : List Nat
  pttAcquire : List Bool
  audioOut : List Bool
  audioIn : List Bool
  /-- ENERGY_DB of the coming non-silent blocks, as a trace's `e=` gives it (R122). -/
  energy : List Energy
  nin : List Nat
  demod : List (Option Frame)
  pre : List (List Sample)
  post : List (List Sample)
  modulated : List (List Sample)
  write : List Bool
  drained : List Bool
deriving DecidableEq, Repr

/-- No answer queued. -/
def Env.empty : Env where
  modemOpen := []
  bitsPerFrame := []
  maxTx := []
  maxRx := []
  pttAcquire := []
  audioOut := []
  audioIn := []
  energy := []
  nin := []
  demod := []
  pre := []
  post := []
  modulated := []
  write := []
  drained := []

/-- The block state (R30). The last five fields are the model's own (INVENTORY.md, State). -/
structure State where
  cfg : Cfg
  hf : HostDecode
  cs : ChannelEnergy
  af : Reassembly
  tx : Transmit
  pttKeyed : Bool
  rxBuf : List Sample
  hostOut : List Byte
  trace : List Action
  log : List LogRecord
  fatal : Option FatalCause
  /-- A BOOT has begun the run (R377; log entry 4). -/
  booted : Bool
  /-- The results of the queries so far (log entry 14). -/
  replies : List Reply
  /-- The inputs presented and not yet taken, oldest first (log entry 1). -/
  pending : List Input
  env : Env
  /-- How many free values have been drawn (log entry 6). -/
  drawn : Nat
deriving DecidableEq, Repr

/-- HostFramer state at reset (R373). -/
def HostDecode.reset : HostDecode := { inFrame := false, escape := false, buf := [] }

/-- Reassembly state at reset (R373, R228). -/
def Reassembly.reset : Reassembly := { lastTag := .single, lastId := 0, acc := [] }

/-- ChannelSense state at reset (R373). -/
def ChannelEnergy.reset (c : Cfg) : ChannelEnergy := { smoothed := c.floorDb, quiet := 0, allowed := false }

/-- TransmitSequencer state at reset (R373). -/
def Transmit.reset : Transmit := { phase := .idle, frames := [], index := 0, polls := 0, queue := [] }

/-- The machine right after reset: the table of R59, after a BOOT of the reference configuration in which every
acquisition succeeded (vector B-1). Log entry 2. -/
def State.reset : State where
  cfg := Cfg.reference
  hf := HostDecode.reset
  cs := ChannelEnergy.reset Cfg.reference
  af := Reassembly.reset
  tx := Transmit.reset
  pttKeyed := false
  rxBuf := []
  hostOut := []
  trace := [.ptt false]
  log := []
  fatal := none
  booted := true
  replies := []
  pending := []
  env := Env.empty
  drawn := 0

end Sys2Proof.Machine
end

