-- ==== Sys2Proof/Machine/Flags.lean ====
section
/-! DEFINITION. The Boolean conditions of the block: when an event is enabled (30_encoding.md R120), the keyed phases
(R48), and the classification of the smoothed energy (42_channel_sense.md R184). The block has no condition codes
(R54). -/

namespace Sys2Proof.Machine

/-- The phases in which the PTT is keyed (R48, R276). -/
def Phase.keyed : Phase → Bool
  | .idle => false
  | .waitChannelFree => false
  | .keyedLeadIn => true
  | .preamble => true
  | .frameEmit => true
  | .postamble => true
  | .leadOut => true
  | .drain => true
  | .keyDown => true

/-- The queue condition of HOST_BYTE: under BLOCK a full queue stops the host agent (R145). -/
def hostReady (s : State) : Bool :=
  match s.cfg.txqPolicy with
  | .block => s.tx.queue.length < s.cfg.txqDepth
  | .dropOldest => true

/-- TX_STEP has something to do: not IDLE, or a packet waits (R261). -/
def txReady (s : State) : Bool := s.tx.phase ≠ .idle || s.tx.queue ≠ []

/-- The further condition of an instruction, beside a live block (R120, R145, R261). -/
def ready (i : Instr) (s : State) : Bool :=
  match i with
  | .boot _ => true
  | .hostByte _ => hostReady s
  | .txStep => txReady s
  | .txCancel => true
  | .rxBlock _ => true
  | .mayTx => true
  | .pttStatus => true
  | .hostDelim => hostReady s
  | .hostEsc => hostReady s
  | .hostEscaped _ => hostReady s
  | .hostData _ => hostReady s
  | .airSingle _ _ => true
  | .airBegin _ _ => true
  | .airFrag _ _ => true
  | .airEnd _ _ => true

/-- "When it is not `none`, no event is enabled" (R53): an event of a booted block is enabled. -/
def enabled (i : Instr) (s : State) : Bool := s.fatal.isNone && ready i s

/-- An event that is offered to a booted block and must wait. BOOT never waits: it starts a new run (R370; log entry
3). Before BOOT nothing waits: the event is refused (R377). -/
def waits (i : Instr) (s : State) : Bool :=
  match i with
  | .boot _ => false
  | _ => s.booted && !enabled i s

/-- The three cases of R184. -/
inductive Band where
  | busy
  | quiet
  | dead
deriving DecidableEq, Repr

/-- Where a smoothed energy lies; both comparisons are strict (R184). -/
def classify (c : Cfg) (v : Energy) : Band :=
  if ltReal c.upperDb v then .busy
  else if ltReal v c.lowerDb then .quiet
  else .dead

end Sys2Proof.Machine
end

