-- ==== Sys2Proof/Machine/Ops.lean ====
section
/-! DEFINITION. The named operations over the state: the output primitives of 00_scope.md R17, the raising of a reported
condition (60_exceptions.md R330), and the guard that every event but BOOT passes (R120, R377). -/

namespace Sys2Proof.Machine

/-- The outcome of a step of this machine. -/
abbrev Result := Host.Outcome State Fault Refusal

/-- `raise`: "`log(code, info)` appends `LogRecord{code, info}` to `s.log`" (R330). The block's one way to take an
exception: it saves nothing, changes no mode and transfers no control (R345), and there is no return (R346). The
recovery action follows in the rule that raises. -/
def State.raise (s : State) (r : LogRecord) : State := { s with log := s.log ++ [r] }

/-- `fatal(w)` (R371, R375): the one condition that stops the block. -/
def State.stopFatal (s : State) (w : FatalCause) : State := { s.raise (.resource w) with fatal := some w }

/-- The code of a record (R330). -/
def LogRecord.code : LogRecord → Nat
  | .fragLoss _ _ _ _ => 1
  | .hostOverflow _ => 2
  | .resource _ => 3
  | .txAudioFail _ _ => 4
  | .tooLong _ => 5
  | .badLength _ _ => 6
  | .badFrameSize _ => 7
  | .txqDrop _ => 8
  | .waitLimit _ => 9
  | .cancel _ _ => 10

/-- An external action goes on the trace (R51). -/
def State.act (s : State) (a : Action) : State := { s with trace := s.trace ++ [a] }

/-- `ptt_set(v)` with the register that holds the last value issued (R17, R48). -/
def State.pttSet (s : State) (v : Bool) : State := { s.act (.ptt v) with pttKeyed := v }

/-- `host_emit(bytes)` (R17, R50). -/
def State.hostEmit (s : State) (bytes : List Byte) : State := { s with hostOut := s.hostOut ++ bytes }

/-- A query's result (R188, R363). -/
def State.reply (s : State) (r : Reply) : State := { s with replies := s.replies ++ [r] }

/-- The guard of every event but BOOT: before BOOT it is refused (R377), while it is not enabled nothing happens and it
stays pending (R120; log entry 5), otherwise its meaning `k` runs. -/
def takeEvent (i : Instr) (s : State) (k : State → Result) : Result :=
  if s.booted then
    if enabled i s then k s else .next s
  else .refused .beforeBoot

end Sys2Proof.Machine
end

