-- ==== Sys2Proof/Machine/Operands.lean ====
section
/-! DEFINITION. The operand forms and the draws. Operands are a byte and a sample list (30_encoding.md R124) and stand
in the instruction itself. A draw takes the oldest queued answer of its kind; where none is queued it is a free value
within its contract (00_scope.md R18; 60_exceptions.md R360 to R362; log entry 6). -/

namespace Sys2Proof.Machine

/-- One draw: the answer, the answers left, and the number of free values used so far. -/
def draw {α : Type} (queued : List α) (free : Nat → α) (n : Nat) : α × List α × Nat :=
  match queued with
  | a :: rest => (a, rest, n)
  | [] => (free n, [], n + 1)

/-- `modem_open(MODEM_MODE)` (R371). -/
def drawModemOpen (s : State) : Bool × State :=
  let (a, rest, n) := draw s.env.modemOpen Config.freeModemOpen s.drawn
  (a, { s with env := { s.env with modemOpen := rest }, drawn := n })

/-- `bits_per_frame(h)` (R371). -/
def drawBitsPerFrame (s : State) : Nat × State :=
  let (a, rest, n) := draw s.env.bitsPerFrame Config.freeBitsPerFrame s.drawn
  (a, { s with env := { s.env with bitsPerFrame := rest }, drawn := n })

/-- `max_tx_samples(h)` (R371). -/
def drawMaxTx (s : State) : Nat × State :=
  let (a, rest, n) := draw s.env.maxTx Config.freeMaxTx s.drawn
  (a, { s with env := { s.env with maxTx := rest }, drawn := n })

/-- `max_rx_samples(h)` (R371). -/
def drawMaxRx (s : State) : Nat × State :=
  let (a, rest, n) := draw s.env.maxRx Config.freeMaxRx s.drawn
  (a, { s with env := { s.env with maxRx := rest }, drawn := n })

/-- `ptt_acquire()` (R371). -/
def drawPttAcquire (s : State) : Bool × State :=
  let (a, rest, n) := draw s.env.pttAcquire Config.freePttAcquire s.drawn
  (a, { s with env := { s.env with pttAcquire := rest }, drawn := n })

/-- `audio_out_acquire()` (R371). -/
def drawAudioOut (s : State) : Bool × State :=
  let (a, rest, n) := draw s.env.audioOut Config.freeAudioOut s.drawn
  (a, { s with env := { s.env with audioOut := rest }, drawn := n })

/-- `audio_in_acquire()` (R371). -/
def drawAudioIn (s : State) : Bool × State :=
  let (a, rest, n) := draw s.env.audioIn Config.freeAudioIn s.drawn
  (a, { s with env := { s.env with audioIn := rest }, drawn := n })

/-- `10 * log10(pwr)`, with `pwr` the mean-square power relative to 16-bit full scale (R181). -/
def meanSquareDb (blk : List Sample) : Energy :=
  { const := 0
    terms := [{
      coef := 1, log := some ((blk.map fun x => x.toInt.natAbs ^ 2).sum, blk.length * 32768 ^ 2), names := [] }] }

/-- ENERGY_DB(blk) of a block that is not silent, by the configuration's function, clamped below at FLOOR_DB (R181). -/
def energyDb (c : Cfg) (blk : List Sample) : Energy :=
  maxReal c.floorDb (match c.energyFn with | .meanSquare => meanSquareDb blk | .external n => Config.energyDb n blk)

/-- ENERGY_DB(blk) of a block that is not silent: the queued answer, where a trace "gives `ENERGY_DB(blk)` directly"
(R122), or the configuration's function. That is a function of the block, so it uses no free value of the counter. -/
def drawEnergy (blk : List Sample) (s : State) : Energy × State :=
  match s.env.energy with
  | e :: rest => (e, { s with env := { s.env with energy := rest } })
  | [] => (energyDb s.cfg blk, s)

/-- The energy of any non-empty block: FLOOR_DB "for an all-zero block" (R181), which nothing is asked about. -/
def blockEnergy (blk : List Sample) (s : State) : Energy × State :=
  if blk.all (· = 0) then (s.cfg.floorDb, s) else drawEnergy blk s

/-- NIN, `next_required_sample_count`, drawn "freshly at each loop iteration" (R362). A free answer lies in
`1 .. MAX_RX_SAMPLES`. The last NIN is not kept, so it may also change where no DEMOD came between: log entry 27. -/
def drawNin (s : State) : Nat × State :=
  let (a, rest, n) := draw s.env.nin (fun k => Config.freeNin k % s.cfg.maxRxSamples + 1) s.drawn
  (a, { s with env := { s.env with nin := rest }, drawn := n })

/-- DEMOD(chunk), `samples_to_frame` (R362). -/
def drawDemod (chunk : List Sample) (s : State) : Option Frame × State :=
  let (a, rest, n) := draw s.env.demod (fun k => Config.freeDemod k chunk) s.drawn
  (a, { s with env := { s.env with demod := rest }, drawn := n })

/-- PRE() (R360). -/
def drawPre (s : State) : List Sample × State :=
  let (a, rest, n) := draw s.env.pre Config.freePre s.drawn
  (a, { s with env := { s.env with pre := rest }, drawn := n })

/-- POST() (R360). -/
def drawPost (s : State) : List Sample × State :=
  let (a, rest, n) := draw s.env.post Config.freePost s.drawn
  (a, { s with env := { s.env with post := rest }, drawn := n })

/-- MOD(frame) (R360). A free answer has at most MAX_TX_SAMPLES samples. -/
def drawMod (f : Frame) (s : State) : List Sample × State :=
  let (a, rest, n) := draw s.env.modulated (fun k => (Config.freeMod k f).take s.cfg.maxTxSamples) s.drawn
  (a, { s with env := { s.env with modulated := rest }, drawn := n })

/-- The answer of `audio_write`: true for ok (R361). -/
def drawWrite (s : State) : Bool × State :=
  let (a, rest, n) := draw s.env.write Config.freeWrite s.drawn
  (a, { s with env := { s.env with write := rest }, drawn := n })

/-- `drained()` (R361). -/
def drawDrained (s : State) : Bool × State :=
  let (a, rest, n) := draw s.env.drained Config.freeDrained s.drawn
  (a, { s with env := { s.env with drained := rest }, drawn := n })

end Sys2Proof.Machine
end

