-- ==== Sys2Proof/Machine/Boot.lean ====
section
/-! DEFINITION. BOOT (70_reset_and_hazards.md R370 to R377): the start of a run. -/

namespace Sys2Proof.Machine

/-- The well-formedness of the arguments (R8, R10, R11, R384). -/
def argsOk (a : Args) : Bool :=
  1 ≤ a.hostMtu && 1 ≤ a.txqDepth && ltReal a.lowerDb a.upperDb && ltReal (.rat 0) (weightReal a.alpha)
    && !ltReal (.rat 1) (weightReal a.alpha) && a.leadOutSamples < a.leadInSamples && a.tags.distinct

/-- The geometry the modem's answers must give (R8, R360, R372). -/
def geometryOk (c : Cfg) : Bool :=
  4 ≤ airF c && airF c ≤ 66 && 1 ≤ c.maxTxSamples && 1 ≤ c.maxRxSamples

/-- A configuration the spec admits (R8, R10, R11, R31). -/
def cfgOk (c : Cfg) : Bool := argsOk c.toArgs && geometryOk c

/-- "s <- reset state of rule R373; s.trace <- []; s.log <- []; s.fatal <- none" (R371), before the modem has answered
(log entries 17 and 18). -/
def bootState (a : Args) (s : State) : State where
  cfg := { toArgs := a, bitsPerFrame := 0, maxTxSamples := 0, maxRxSamples := 0 }
  hf := HostDecode.reset
  cs := { smoothed := a.floorDb, quiet := 0, allowed := false }
  af := Reassembly.reset
  tx := Transmit.reset
  pttKeyed := false
  rxBuf := []
  hostOut := []
  trace := []
  log := []
  fatal := none
  booted := true
  replies := []
  pending := s.pending
  env := s.env
  drawn := s.drawn

/-- The modem's three answers go into the configuration (R371). -/
def bootGeometry (s : State) : State :=
  let (bits, s) := drawBitsPerFrame s
  let (maxTx, s) := drawMaxTx s
  let (maxRx, s) := drawMaxRx s
  { s with cfg := { s.cfg with bitsPerFrame := bits, maxTxSamples := maxTx, maxRxSamples := maxRx } }

/-- The audio input, acquired last (R371). -/
def bootAudioIn (s : State) : State :=
  let (ok, s) := drawAudioIn s
  if ok then s else s.stopFatal .audioIn

/-- The audio output (R371). -/
def bootAudioOut (s : State) : State :=
  let (ok, s) := drawAudioOut s
  if ok then bootAudioIn s else s.stopFatal .audioOut

/-- The PTT line, unkeyed as soon as it is acquired (R371, R374). -/
def bootPtt (s : State) : State :=
  let (ok, s) := drawPttAcquire s
  if ok then bootAudioOut (s.pttSet false) else s.stopFatal .ptt

/-- The modem first, "because `F` and `P` come from it" (R371). -/
def bootModem (s : State) : Result :=
  let (ok, s) := drawModemOpen s
  if ok then
    let s := bootGeometry s
    if geometryOk s.cfg then .next (bootPtt s) else .refused .geometry
  else .next (s.stopFatal .modem)

/-- BOOT (R371). It starts a fresh run from any state: "Nothing survives it" (R370; log entry 3). -/
def execBoot (a : Args) (s : State) : Result :=
  if argsOk a then bootModem (bootState a s) else .refused .configuration

end Sys2Proof.Machine
end

