-- ==== Sys2Proof/Machine/HostFramer.lean ====
section
/-! DEFINITION. The HostFramer (41_host_framer.md): byte-stuffing encode and decode, HOST_BYTE and the four byte
classes. -/

namespace Sys2Proof.Machine

/-- The wire form of one payload byte (R101, R150). -/
def stuff (b : Byte) : List Byte := if b = DELIM ∨ b = ESC then [ESC, b ^^^ MASK] else [b]

/-- `HostFramer.encode(p)` (R150). It is total and takes no MTU check (R153). -/
def hostEncode (p : Packet) : List Byte := DELIM :: (p.flatMap stuff ++ [DELIM])

/-- `unmask(b)` (R147). -/
def unmask (b : Byte) : Byte := if b ^^^ MASK = DELIM ∨ b ^^^ MASK = ESC then b ^^^ MASK else b

/-- `open_frame()` (R140, R142). -/
def openFrame (s : State) : State := { s with hf := { inFrame := true, escape := false, buf := [] } }

/-- `deliver(p)` (R145). -/
def deliver (p : Packet) (s : State) : State :=
  if s.tx.queue.length < s.cfg.txqDepth then { s with tx := { s.tx with queue := s.tx.queue ++ [p] } }
  else
    let s := s.raise (.txqDrop (s.tx.queue.headD []).length)
    { s with tx := { s.tx with queue := s.tx.queue.drop 1 ++ [p] } }

/-- `put(d)` with the overflow check (R144). -/
def put (d : Byte) (s : State) : State :=
  if s.hf.buf.length = s.cfg.hostMtu then
    { s.raise (.hostOverflow (s.cfg.hostMtu + 1)) with hf := { inFrame := false, escape := false, buf := [] } }
  else { s with hf := { s.hf with buf := s.hf.buf ++ [d] } }

/-- A delimiter (R142, R143): it wins over a pending escape, and an empty frame delivers nothing. -/
def delimiter (s : State) : State :=
  if s.hf.inFrame then
    if s.hf.buf = [] then openFrame s else openFrame (deliver s.hf.buf s)
  else openFrame s

/-- The byte after an escape (R147). -/
def escaped (b : Byte) (s : State) : State := put (unmask b) { s with hf := { s.hf with escape := false } }

/-- The escape byte in a frame (R146). -/
def setEscape (s : State) : State := { s with hf := { s.hf with escape := true } }

/-- The whole event HOST_BYTE, as the pseudocode of R140 writes it. -/
def hostByteOp (b : Byte) (s : State) : State :=
  if ¬ s.hf.inFrame then
    if b = DELIM then openFrame s else s
  else if b = DELIM then delimiter s
  else if s.hf.escape then escaped b s
  else if b = ESC then setEscape s
  else put b s

/-- HOST_BYTE b (R140). -/
def execHostByte (b : Byte) (s : State) : Result := takeEvent (.hostByte b) s fun s => .next (hostByteOp b s)

/-- HOST.DELIM: 0x7E "in idle it opens a frame (R142); in a frame it ends it" (R143). -/
def execHostDelim (s : State) : Result := takeEvent .hostDelim s fun s => .next (delimiter s)

/-- HOST.ESC: sets the escape (R146), is ignored in idle (R141), and "when an escape is pending it is an ESCAPED byte"
(R147; log entry 11). -/
def execHostEsc (s : State) : Result :=
  takeEvent .hostEsc s fun s =>
    .next (if s.hf.inFrame ∧ ¬ s.hf.escape then setEscape s else hostByteOp ESC s)

/-- HOST.ESCAPED b: in a frame with an escape pending, the byte is unmasked and put (R147). In another state the byte
has the class that R103 gives it there (log entry 11). -/
def execHostEscaped (b : Byte) (s : State) : Result :=
  takeEvent (.hostEscaped b) s fun s =>
    .next (if s.hf.inFrame ∧ s.hf.escape ∧ b ≠ DELIM then escaped b s else hostByteOp b s)

/-- HOST.DATA b: in a frame with no escape pending, the byte is put (R144). In another state the byte has the class that
R103 gives it there (log entry 11). -/
def execHostData (b : Byte) (s : State) : Result :=
  takeEvent (.hostData b) s fun s =>
    .next (if s.hf.inFrame ∧ ¬ s.hf.escape ∧ b ≠ DELIM ∧ b ≠ ESC then put b s else hostByteOp b s)

end Sys2Proof.Machine
end

