-- ==== Sys2Proof/Machine/AirFramer.lean ====
section
/-! DEFINITION. The AirFramer (43_air_framer.md): frame construction, fragmentation and reassembly. -/

namespace Sys2Proof.Machine

/-- One bit of a CRC with polynomial 0x1021 (R211). -/
def crcShift (c : BitVec 16) : BitVec 16 := if c.msb then (c <<< 1) ^^^ 0x1021 else c <<< 1

/-- One byte of CRC-16/CCITT-FALSE (R211). -/
def crcByte (c : BitVec 16) (b : Byte) : BitVec 16 :=
  (List.range 8).foldl (fun c _ => crcShift c) (c ^^^ (b ++ (0 : Byte)))

/-- CRC-16/CCITT-FALSE: "polynomial 0x1021, initial value 0xFFFF, no reflection, no final XOR" (R211). -/
def crcCcittFalse (bytes : List Byte) : BitVec 16 := bytes.foldl crcByte 0xFFFF

/-- `CRC16(bytes)`, the modem's primitive (R211, R360). -/
def crc16 (c : Cfg) (bytes : List Byte) : BitVec 16 :=
  match c.crc with
  | .ccittFalse => crcCcittFalse bytes
  | .external n => Config.crc16 n bytes

/-- `crcbytes(c)` (R210, R74). -/
def crcBytes (o : CrcOrder) (v : BitVec 16) : List Byte :=
  match o with
  | .big => [v.extractLsb' 8 8, v.extractLsb' 0 8]
  | .little => [v.extractLsb' 0 8, v.extractLsb' 8 8]

/-- The header and payload region of a frame, zero-padded (R210, R114). -/
def frameBody (c : Cfg) (k : AirKind) (fld : Nat) (data : List Byte) : List Byte :=
  airHeader c.tags k (BitVec.ofNat 6 fld) :: (data ++ List.replicate (airP c - data.length) 0)

/-- `mkframe(tag, fld, data)` (R210). -/
def mkFrame (c : Cfg) (k : AirKind) (fld : Nat) (data : List Byte) : Frame :=
  frameBody c k fld data ++ crcBytes c.crcOrder (crc16 c (frameBody c k fld data))

/-- `ceil_div(a, b)` (R15). -/
def ceilDiv (a b : Nat) : Nat := (a + b - 1) / b

/-- The longest packet the AirFramer can carry, MAX_PACKET_AIR (R8). -/
def maxPacketAir (c : Cfg) : Nat := 64 * airP c

/-- Fragment `j` of a packet: `p[j*P : (j+1)*P]` (R216). -/
def fragment (c : Cfg) (p : Packet) (j : Nat) : List Byte := (p.drop (j * airP c)).take (airP c)

/-- The FRAG frames `j = 1 .. k - 2` (R216). -/
def fragFrames (c : Cfg) (p : Packet) (k : Nat) : List Frame :=
  (List.range (k - 2)).map fun i => mkFrame c .frag (k - 2 - i) (fragment c p (i + 1))

/-- The frames of a packet that needs `k ≥ 2` of them (R212, R215 to R217). -/
def multiFrames (c : Cfg) (p : Packet) (k : Nat) : List Frame :=
  mkFrame c .begin1 (k - 1) (fragment c p 0)
    :: (fragFrames c p k ++ [mkFrame c .end1 (p.length - (k - 1) * airP c) (p.drop ((k - 1) * airP c))])

/-- `AirFramer.encode(p)` (R212). It "is not defined for `n > 64 * P`" (R213): `none` there, and no caller asks. -/
def airEncode (c : Cfg) (p : Packet) : Option (List Frame) :=
  if maxPacketAir c < p.length then none
  else if p.length ≤ airP c then some [mkFrame c .single p.length p]
  else some (multiFrames c p (ceilDiv p.length (airP c)))

/-- `reset()` of the reassembly (R228). -/
def afReset (s : State) : State := { s with af := Reassembly.reset }

/-- A reassembly is in progress: `last_tag ∈ {BEGIN, FRAG}` (R224, R226). -/
def Reassembly.inProgress (r : Reassembly) : Bool := r.lastTag = .begin1 || r.lastTag = .frag

/-- E_FRAG_LOSS with its fields, then the reset (R225, R227, R331). -/
def fragLoss (kind : AirKind) (got : Nat) (s : State) : State :=
  afReset (s.raise (.fragLoss kind got s.af.lastTag s.af.lastId.toNat))

/-- A SINGLE frame (R222, R229): the reassembly state is not read or written. -/
def airSingleOp (len : Field) (rest : List Byte) (s : State) : State × Option Packet :=
  if airP s.cfg < len.toNat then (s.raise (.badLength .single len.toNat), none)
  else (s, some (rest.take len.toNat))

/-- A BEGIN frame (R223): it always starts a fresh reassembly. -/
def airBeginOp (fid : Field) (rest : List Byte) (s : State) : State × Option Packet :=
  ({ s with af := { lastTag := .begin1, lastId := fid.zeroExtend 8, acc := rest.take (airP s.cfg) } }, none)

/-- A FRAG frame (R224, R225). "`0 − 1 = −1` matches no 6-bit id" (R220). -/
def airFragOp (fid : Field) (rest : List Byte) (s : State) : State × Option Packet :=
  if s.af.inProgress ∧ fid.toNat + 1 = s.af.lastId.toNat then
    ({ s with af := { lastTag := .frag, lastId := fid.zeroExtend 8, acc := s.af.acc ++ rest.take (airP s.cfg) } },
      none)
  else (fragLoss .frag fid.toNat s, none)

/-- An END frame (R226, R227, R229): the length check comes before the sequence check. -/
def airEndOp (len : Field) (rest : List Byte) (s : State) : State × Option Packet :=
  if airP s.cfg < len.toNat then (afReset (s.raise (.badLength .end1 len.toNat)), none)
  else if s.af.inProgress ∧ s.af.lastId = 1 then (afReset s, some (s.af.acc ++ rest.take len.toNat))
  else (fragLoss .end1 0 s, none)

/-- The size check that comes first (R221); `rest` is the frame less its header byte. -/
def sizedFrame (rest : List Byte) (op : State → State × Option Packet) (s : State) : State × Option Packet :=
  if rest.length + 1 = airF s.cfg then op s else (s.raise (.badFrameSize (rest.length + 1)), none)

/-- `AirFramer.decode(fr)` (R220). -/
def airDecode (frame : Frame) (s : State) : State × Option Packet :=
  match frame with
  | [] => if airF s.cfg = 0 then (s, none) else (s.raise (.badFrameSize 0), none)
  | h :: rest =>
    match kindOfTag s.cfg.tags (headerTag h) with
    | .single => sizedFrame rest (airSingleOp (headerField h) rest) s
    | .begin1 => sizedFrame rest (airBeginOp (headerField h) rest) s
    | .frag => sizedFrame rest (airFragOp (headerField h) rest) s
    | .end1 => sizedFrame rest (airEndOp (headerField h) rest) s

/-- "any completed packet is handed to `HostFramer.encode` and written to the host link" (R305). -/
def forward (r : State × Option Packet) : State :=
  match r.2 with
  | some pkt => r.1.hostEmit (hostEncode pkt)
  | none => r.1

/-- A frame that DEMOD yields (R305). -/
def receiveFrame (frame : Frame) (s : State) : State := forward (airDecode frame s)

end Sys2Proof.Machine
end

