-- ==== Sys2Proof/Machine/ChannelSense.lean ====
section
/-! DEFINITION. ChannelSense (42_channel_sense.md): the energy smoothing, the hysteresis gate and the two queries. -/

namespace Sys2Proof.Machine

/-- `v = (1 - ALPHA) * s.cs_smoothed + ALPHA * e` (R183). -/
def smooth (c : Cfg) (e v : Energy) : Energy := addReal (subReal v (weigh c.alpha v)) (weigh c.alpha e)

/-- The gate after the smoothed value is stored (R185, R186, R187), for a block of `n` samples. -/
def gate (c : Cfg) (n : Nat) (cs : ChannelEnergy) : ChannelEnergy :=
  match classify c cs.smoothed with
  | .busy => { cs with quiet := 0, allowed := false }
  | .quiet =>
    { cs with quiet := cs.quiet + n, allowed := if c.dwellSamples < cs.quiet + n then true else cs.allowed }
  | .dead => cs

/-- One update with energy `e` and `n` samples (R180). -/
def sense (c : Cfg) (e : Energy) (n : Nat) (cs : ChannelEnergy) : ChannelEnergy :=
  gate c n { cs with smoothed := smooth c e cs.smoothed }

/-- `ChannelSense.update(blk)` (R180). An empty block changes nothing (R182). `none`: the answer breaks the law
`ENERGY_DB(blk) ≥ FLOOR_DB` of R181 (log entry 7). -/
def csUpdate (blk : List Sample) (s : State) : Option State :=
  if blk = [] then some s
  else
    let (e, s) := blockEnergy blk s
    if ltReal e s.cfg.floorDb then none else some { s with cs := sense s.cfg e blk.length s.cs }

/-- MAY_TX (R188): returns the permission, with no side effect. -/
def execMayTx (s : State) : Result := takeEvent .mayTx s fun s => .next (s.reply (.mayTx s.cs.allowed))

/-- PTT_STATUS (R363): "It reports the value the block last issued". -/
def execPttStatus (s : State) : Result := takeEvent .pttStatus s fun s => .next (s.reply (.pttStatus s.pttKeyed))

end Sys2Proof.Machine
end

