-- ==== Sys2Proof/Machine/ReceiveSequencer.lean ====
section
/-! DEFINITION. The ReceiveSequencer (45_receive_sequencer.md): RX_BLOCK, and the four kinds of air frame, which reach
the block through it (30_encoding.md R123). -/

namespace Sys2Proof.Machine

/-- NIN lies in its contract: `1 ≤ n ≤ MAX_RX_SAMPLES`, and "`NIN = 0` is excluded" (R362). -/
def ninOk (c : Cfg) (n : Nat) : Bool := 1 ≤ n && n ≤ c.maxRxSamples

/-- One pass of the loop body (R303 to R305): the oldest `n` samples go to DEMOD, and a frame it yields goes on. -/
def demodulate (n : Nat) (s : State) : State :=
  let chunk := s.rxBuf.take n
  let (r, s) := drawDemod chunk { s with rxBuf := s.rxBuf.drop n }
  match r with
  | none => s
  | some frame => receiveFrame frame s

/-- The demodulation loop (R303). "the loop runs at most `len(s.rx_buf)` times": that length is the fuel. `none`: an
answer outside the contract (log entry 7). -/
def rxLoop : Nat → State → Option State
  | 0, s =>
    let (n, s) := drawNin s
    if ninOk s.cfg n then some s else none
  | fuel + 1, s =>
    let (n, s) := drawNin s
    if ninOk s.cfg n then
      if s.rxBuf.length < n then some s else rxLoop fuel (demodulate n s)
    else none

/-- A block that is not discarded: sense, buffer, demodulate (R302, R303). -/
def rxProcess (blk : List Sample) (s : State) : Result :=
  match csUpdate blk s with
  | none => .refused (.contract .energy)
  | some s =>
    let s := { s with rxBuf := s.rxBuf ++ blk }
    match rxLoop s.rxBuf.length s with
    | none => .refused (.contract .nin)
    | some s => .next s

/-- RX_BLOCK blk (R300). While the PTT is keyed "the whole block is discarded" (R301). -/
def execRxBlock (blk : List Sample) (s : State) : Result :=
  takeEvent (.rxBlock blk) s fun s => if s.pttKeyed then .next s else rxProcess blk s

/-- The draws of `RX_FRAME fr` (R123): NIN answers the length of the block and DEMOD the frame. -/
def State.answerFrame (s : State) (n : Nat) (frame : Frame) : State :=
  { s with env := { s.env with nin := n :: s.env.nin, demod := some frame :: s.env.demod } }

/-- `RX_FRAME fr`: "`RX_BLOCK` of `NIN` samples whose draws are `{nin=NIN, demod=fr}`" (R123). A block that is discarded
asks for no draw (R301). Log entry 12. -/
def rxFrame (frame : Frame) (blk : List Sample) (s : State) : Result :=
  if s.pttKeyed then .next s else rxProcess blk (s.answerFrame blk.length frame)

/-- AIR.SINGLE: RX_FRAME of a SINGLE frame (R123, R222, R229, R305). -/
def execAirSingle (len : Field) (rcv : Received) (s : State) : Result :=
  takeEvent (.airSingle len rcv) s fun s => rxFrame (airHeader s.cfg.tags .single len :: rcv.rest) rcv.blk s

/-- AIR.BEGIN: RX_FRAME of a BEGIN frame (R123, R223, R305). -/
def execAirBegin (fid : Field) (rcv : Received) (s : State) : Result :=
  takeEvent (.airBegin fid rcv) s fun s => rxFrame (airHeader s.cfg.tags .begin1 fid :: rcv.rest) rcv.blk s

/-- AIR.FRAG: RX_FRAME of a FRAG frame (R123, R224, R225, R305). -/
def execAirFrag (fid : Field) (rcv : Received) (s : State) : Result :=
  takeEvent (.airFrag fid rcv) s fun s => rxFrame (airHeader s.cfg.tags .frag fid :: rcv.rest) rcv.blk s

/-- AIR.END: RX_FRAME of an END frame (R123, R226, R227, R229, R305). -/
def execAirEnd (len : Field) (rcv : Received) (s : State) : Result :=
  takeEvent (.airEnd len rcv) s fun s => rxFrame (airHeader s.cfg.tags .end1 len :: rcv.rest) rcv.blk s

end Sys2Proof.Machine
end

