-- ==== Sys2Proof/Machine/TransmitSequencer.lean ====
section
/-! DEFINITION. The TransmitSequencer (44_transmit_sequencer.md): TX_STEP, one definition per phase, and TX_CANCEL. -/

namespace Sys2Proof.Machine

/-- The phase register alone changes (R43). -/
def State.setPhase (s : State) (p : Phase) : State := { s with tx := { s.tx with phase := p } }

/-- The packet in transmission is dropped and the machine goes to `p` (R264, R272, R274). -/
def State.clearPacket (s : State) (p : Phase) : State :=
  { s with tx := { s.tx with phase := p, frames := [], index := 0, polls := 0 } }

/-- A failed audio write (R273). -/
def audioFailed (s : State) : State := (s.raise (.txAudioFail s.tx.phase s.tx.index)).setPhase .keyDown

/-- `emit(k, samples)` (R260): nothing is written or asked for an empty list. The Boolean is the answer, true for
ok. -/
def emit (k : AudioKind) (samples : List Sample) (s : State) : Bool × State :=
  if samples = [] then (true, s)
  else
    let (ok, s) := drawWrite s
    (ok, s.act (.audio k samples))

/-- `emit(k, samples)` and, on ok, the phase `next`; on fail R273. -/
def emitThen (k : AudioKind) (samples : List Sample) (next : Phase) (s : State) : State :=
  match emit k samples s with
  | (true, s) => s.setPhase next
  | (false, s) => audioFailed s

/-- Silence: `n` samples of value 0 (R75, R266). -/
def silence (n : Nat) : List Sample := List.replicate n 0

/-- IDLE: take the oldest packet (R262, R263). With no packet TX_STEP is not enabled (R261). -/
def txIdle (s : State) : Result :=
  match s.tx.queue with
  | [] => .next s
  | p :: queue =>
    let s := { s with tx := { s.tx with queue := queue } }
    match airEncode s.cfg p with
    | none => .next (s.raise (.tooLong p.length))
    | some frames =>
      .next { s with tx := { s.tx with phase := .waitChannelFree, frames := frames, index := 0, polls := 0 } }

/-- `poll_failed()` (R264). -/
def pollFailed (s : State) : State :=
  let s := { s with tx := { s.tx with polls := s.tx.polls + 1 } }
  match s.cfg.channelWaitLimit with
  | none => s
  | some m => if m ≤ s.tx.polls then (s.raise (.waitLimit m)).clearPacket .idle else s

/-- WAIT_CHANNEL_FREE (R264, R265): the permission read and the key-up are one event. -/
def txWait (s : State) : Result :=
  if s.cs.allowed then .next ((s.pttSet true).setPhase .keyedLeadIn) else .next (pollFailed s)

/-- KEYED_LEAD_IN (R266). -/
def txLeadIn (s : State) : Result := .next (emitThen .leadIn (silence s.cfg.leadInSamples) .preamble s)

/-- PREAMBLE (R267). -/
def txPreamble (s : State) : Result :=
  let (samples, s) := drawPre s
  .next (emitThen .preamble samples .frameEmit s)

/-- The index moves on and, after the last frame, so does the phase (R268). -/
def frameDone (s : State) : State :=
  let s := { s with tx := { s.tx with index := s.tx.index + 1 } }
  if s.tx.index = s.tx.frames.length then s.setPhase .postamble else s

/-- FRAME_EMIT (R268). A failed write leaves the index (R273; log entry 15). More samples than MAX_TX_SAMPLES break the
modem's contract (R360; log entry 7). -/
def txFrame (s : State) : Result :=
  match s.tx.frames[s.tx.index]? with
  | none => .fault .noFrameLeft
  | some f =>
    let (samples, s) := drawMod f s
    if s.cfg.maxTxSamples < samples.length then .refused (.contract .modulator)
    else
      match emit .frame samples s with
      | (true, s) => .next (frameDone s)
      | (false, s) => .next (audioFailed s)

/-- POSTAMBLE (R269). -/
def txPostamble (s : State) : Result :=
  let (samples, s) := drawPost s
  .next (emitThen .postamble samples .leadOut s)

/-- LEAD_OUT (R270). -/
def txLeadOut (s : State) : Result := .next (emitThen .leadOut (silence s.cfg.leadOutSamples) .drain s)

/-- DRAIN (R271): a poll of `drained()`. -/
def txDrain (s : State) : Result :=
  let (done, s) := drawDrained s
  .next (if done then s.setPhase .keyDown else s)

/-- KEY_DOWN (R272): "KEY_DOWN cannot fail". -/
def txKeyDown (s : State) : Result := .next ((s.pttSet false).clearPacket .idle)

/-- The action of the current phase (R260). -/
def txPhase (s : State) : Result :=
  match s.tx.phase with
  | .idle => txIdle s
  | .waitChannelFree => txWait s
  | .keyedLeadIn => txLeadIn s
  | .preamble => txPreamble s
  | .frameEmit => txFrame s
  | .postamble => txPostamble s
  | .leadOut => txLeadOut s
  | .drain => txDrain s
  | .keyDown => txKeyDown s

/-- TX_STEP (R260, R261). -/
def execTxStep (s : State) : Result := takeEvent .txStep s txPhase

/-- The queue is emptied (R274, R275). -/
def State.clearQueue (s : State) : State := { s with tx := { s.tx with queue := [] } }

/-- The effect of TX_CANCEL: before key-up R274, after it R275. -/
def cancel (s : State) : State :=
  let r := (s.raise (.cancel s.tx.phase s.tx.queue.length)).clearQueue
  if s.tx.phase.keyed then r.setPhase .keyDown else r.clearPacket .idle

/-- TX_CANCEL (R274, R275). -/
def execTxCancel (s : State) : Result := takeEvent .txCancel s fun s => .next (cancel s)

end Sys2Proof.Machine
end

