-- ==== Sys2Proof/Machine/Dispatch.lean ====
section
/-! DEFINITION. The meaning of every instruction, one arm each. -/

namespace Sys2Proof.Machine

def exec (i : Instr) (s : State) : Host.Outcome State Fault Refusal :=
  match i with
  | .boot args => Sys2Proof.Machine.execBoot args s
  | .hostByte b => Sys2Proof.Machine.execHostByte b s
  | .txStep => Sys2Proof.Machine.execTxStep s
  | .txCancel => Sys2Proof.Machine.execTxCancel s
  | .rxBlock blk => Sys2Proof.Machine.execRxBlock blk s
  | .mayTx => Sys2Proof.Machine.execMayTx s
  | .pttStatus => Sys2Proof.Machine.execPttStatus s
  | .hostDelim => Sys2Proof.Machine.execHostDelim s
  | .hostEsc => Sys2Proof.Machine.execHostEsc s
  | .hostEscaped b => Sys2Proof.Machine.execHostEscaped b s
  | .hostData b => Sys2Proof.Machine.execHostData b s
  | .airSingle len rcv => Sys2Proof.Machine.execAirSingle len rcv s
  | .airBegin fid rcv => Sys2Proof.Machine.execAirBegin fid rcv s
  | .airFrag fid rcv => Sys2Proof.Machine.execAirFrag fid rcv s
  | .airEnd len rcv => Sys2Proof.Machine.execAirEnd len rcv s

end Sys2Proof.Machine
end

