-- ==== Sys2Proof/Machine/Fetch.lean ====
section
/-! DEFINITION. How the next event comes to the block: the block fetches no instructions (R87), it takes the events that
its agents present (R78, R80, R120). Log entries 1 and 5. -/

namespace Sys2Proof.Machine

/-- What decoding reads from the state (R103, R112). -/
def decodeCtx (s : State) : DecodeCtx := { tags := s.cfg.tags, escape := s.hf.escape }

/-- An input must wait: it is an event that is not enabled now (R120). -/
def inputWaits (s : State) (x : Input) : Bool :=
  match decodeInput (decodeCtx s) x with
  | .ok i => waits i s
  | .error _ => false

/-- The first of the inputs that need not wait, and the others in their order. A waiting input holds back no other:
"HOST_BYTE and TX_STEP events may interleave in any order the enabling conditions allow" (R79), and "RX_BLOCK never
blocks" (R389). -/
def firstReady (s : State) : List Input → Option (Input × List Input)
  | [] => none
  | x :: rest =>
    if inputWaits s x then (firstReady s rest).map fun r => (r.1, x :: r.2)
    else some (x, rest)

/-- The answers that let a BOOT succeed with the geometry of `c`, put before those already queued (log entry 13). -/
def Env.bootOk (e : Env) (c : Cfg) : Env :=
  { e with
    modemOpen := true :: e.modemOpen
    bitsPerFrame := c.bitsPerFrame :: e.bitsPerFrame
    maxTx := c.maxTxSamples :: e.maxTx
    maxRx := c.maxRxSamples :: e.maxRx
    pttAcquire := true :: e.pttAcquire
    audioOut := true :: e.audioOut
    audioIn := true :: e.audioIn }

/-- The largest NIN that the configuration admits, put before the answers already queued (log entry 13). -/
def Env.ninLargest (e : Env) (c : Cfg) : Env := { e with nin := c.maxRxSamples :: e.nin }

/-- The answers that let the instruction of a presented input run: BOOT gets those it asks for, and the last NIN that an
RX_BLOCK asks for is the largest one (log entry 13). -/
def Env.letRun (e : Env) (c : Cfg) : Instr → Env
  | .boot _ => e.bootOk c
  | .rxBlock _ => e.ninLargest c
  | .airSingle _ _ => e.ninLargest c
  | .airBegin _ _ => e.ninLargest c
  | .airFrag _ _ => e.ninLargest c
  | .airEnd _ _ => e.ninLargest c
  | .hostByte _ => e
  | .txStep => e
  | .txCancel => e
  | .mayTx => e
  | .pttStatus => e
  | .hostDelim => e
  | .hostEsc => e
  | .hostEscaped _ => e
  | .hostData _ => e

/-- The input is presented before all others, with the answers that let it run. -/
def present (x : Input) (s : State) : State :=
  match decodeInput (decodeCtx s) x with
  | .ok i => { s with pending := x :: s.pending, env := s.env.letRun s.cfg i }
  | .error _ => { s with pending := x :: s.pending }

end Sys2Proof.Machine
end

