-- ==== Sys2Proof/Machine/Step.lean ====
section
/-! DEFINITION. One step: one event of the run (20_memory.md R80). -/

namespace Sys2Proof.Machine

/-- One step takes the first input that need not wait and runs its instruction. With no such input no event happens and
nothing changes (R120: "The block steps only on these events"). An input that is no instruction is refused (R121). -/
def step (s : State) : Host.Outcome State Fault Refusal :=
  match firstReady s s.pending with
  | none => .next s
  | some (x, rest) =>
    match decodeInput (decodeCtx s) x with
    | .error e => .refused (.notAnInstruction e)
    | .ok i => exec i { s with pending := rest }

/-- `s` with the instruction whose bits are `w` presented as its next input. -/
def State.withFetchWord (s : State) (nbits w : Nat) : State := present (tableInput s.cfg nbits w) s

end Sys2Proof.Machine
end

