-- ==== Sys2Proof/Safety.lean ====
section
/-! DEFINITION. What counts as a safe state and run, in the terms the statements use: the state invariants that spec/
derives, runs of several instructions, and the conditions of 70_reset_and_hazards.md R376. -/

namespace Sys2Proof.Machine

/-- The block is in its run and not stopped: the condition "`s.fatal = none`" of every event (R120), after BOOT
(R377). -/
def live (s : State) : Prop := s.booted = true ∧ s.fatal = none

/-- Stopped (R376). -/
def stopped (s : State) : Prop := s.fatal ≠ none

/-- Quiescent (R376). -/
def quiescent (s : State) : Prop := s.tx.phase = .idle ∧ s.tx.queue = [] ∧ s.pttKeyed = false

/-- The invariants of R36 and R149. -/
def hostOk (c : Cfg) (h : HostDecode) : Prop :=
  h.buf.length ≤ c.hostMtu ∧ (h.inFrame = false → h.buf = [] ∧ h.escape = false)

/-- The invariants (a) and (b) of R42, with R40 (END is never stored). -/
def reassemblyOk (c : Cfg) (r : Reassembly) : Prop :=
  r.lastTag ≠ .end1
    ∧ (r.lastTag = .single → r.acc = [] ∧ r.lastId = 0)
    ∧ (r.inProgress = true →
        ∃ first, first ≤ 63 ∧ r.lastId.toNat ≤ first ∧ r.acc.length = airP c * (first - r.lastId.toNat + 1))

/-- How many frames of the packet have been written in each phase (R45, R262, R268). -/
def indexOk (t : Transmit) : Prop :=
  match t.phase with
  | .idle => t.frames = [] ∧ t.index = 0 ∧ t.polls = 0
  | .waitChannelFree | .keyedLeadIn | .preamble => t.frames ≠ [] ∧ t.index = 0
  | .frameEmit => t.index < t.frames.length
  | .postamble | .leadOut | .drain => t.index = t.frames.length
  | .keyDown => t.index ≤ t.frames.length

/-- The bounds of R44 to R47, with R149 for the queued packets. -/
def transmitOk (c : Cfg) (t : Transmit) : Prop :=
  indexOk t
    ∧ t.frames.length ≤ 64 ∧ (∀ f ∈ t.frames, f.length = airF c)
    ∧ t.queue.length ≤ c.txqDepth ∧ (∀ p ∈ t.queue, 1 ≤ p.length ∧ p.length ≤ c.hostMtu)
    ∧ (∀ m, c.channelWaitLimit = some m → t.polls < m ∨ t.polls = 0)

/-- "`s.ptt_keyed = true` exactly when" the phase is a keyed one (R48, R276). -/
def pttOk (s : State) : Prop := s.pttKeyed = s.tx.phase.keyed

/-- The value of a PTT action. -/
def Action.pttValue : Action → Option Bool
  | .ptt v => some v
  | .audio _ _ => none

/-- The last PTT action on the trace, "the value of the last `ptt_set` the block issued" (R48). -/
def lastPtt (s : State) : Option Bool := (s.trace.filterMap Action.pttValue).getLast?

/-- The invariant of the running block. -/
structure RunOk (s : State) : Prop where
  cfg : cfgOk s.cfg = true
  host : hostOk s.cfg s.hf
  energy : s.cfg.floorDb.val ≤ s.cs.smoothed.val
  reassembly : reassemblyOk s.cfg s.af
  transmit : transmitOk s.cfg s.tx
  rxBuf : s.rxBuf.length < s.cfg.maxRxSamples
  lastPtt : lastPtt s = some s.pttKeyed

/-- The invariant of every reachable state: the PTT is keyed exactly in the keyed phases (R276), a stopped block has it
unkeyed (R375), and a running one is as `RunOk` says. -/
def Inv (s : State) : Prop :=
  s.booted = true ∧ pttOk s ∧ (s.fatal ≠ none → s.pttKeyed = false) ∧ (s.fatal = none → RunOk s)

/-- A run of instructions, stopping at the first fault or refusal. -/
def execAll : List Instr → State → Result
  | [], s => .next s
  | i :: is, s =>
    match exec i s with
    | .next t => execAll is t
    | .fault f => .fault f
    | .refused r => .refused r

/-- AirFramer.decode of several frames in order, with what each returns (R232). -/
def decodeAll : List Frame → State → State × List (Option Packet)
  | [], s => (s, [])
  | f :: fs, s =>
    let r := airDecode f s
    let rest := decodeAll fs r.1
    (rest.1, r.2 :: rest.2)

/-- The header of frame `j` of the `k ≥ 2` frames of a packet of `n` bytes (R215 to R217): BEGIN with id `k - 1`, FRAGs
counting down to 1, END with the length of the tail. -/
def multiHeader (c : Cfg) (n k j : Nat) : Byte :=
  if j = 0 then airHeader c.tags .begin1 (BitVec.ofNat 6 (k - 1))
  else if j + 1 < k then airHeader c.tags .frag (BitVec.ofNat 6 (k - 1 - j))
  else airHeader c.tags .end1 (BitVec.ofNat 6 (n - (k - 1) * airP c))

/-- The payload of frame `j` of a packet (R214, R216, R217). -/
def payloadOf (c : Cfg) (p : Packet) (j : Nat) : List Byte := (p.drop (j * airP c)).take (airP c)

/-- What E_FRAG_LOSS says when frame `m` of `k` is rejected after the frame with tag `lastTag` and id `lastId` (R225,
R227, R331). -/
def lossOf (k m : Nat) (lastTag : AirKind) (lastId : Nat) : LogRecord :=
  if m + 1 < k then .fragLoss .frag (k - 1 - m) lastTag lastId else .fragLoss .end1 0 lastTag lastId

/-- The instruction of an air frame of kind `k` (R111). -/
def airInstr : AirKind → Field → List Byte → List Sample → Instr
  | .single, f, rest, blk => .airSingle f { rest := rest, blk := blk }
  | .begin1, f, rest, blk => .airBegin f { rest := rest, blk := blk }
  | .frag, f, rest, blk => .airFrag f { rest := rest, blk := blk }
  | .end1, f, rest, blk => .airEnd f { rest := rest, blk := blk }

/-- The receive agent's instructions: RX_BLOCK, also as RX_FRAME (R78, R123). -/
def isReceive (i : Instr) : Prop := (∃ blk, i = .rxBlock blk) ∨ ∃ k f rest blk, i = airInstr k f rest blk

/-- An RX_FRAME whose frame is the only one its RX_BLOCK demodulates: the block is processed, it has an admitted NIN of
samples, it is sensed with result `u`, and the next NIN, drawn with result `v`, asks for more than is left. -/
structure OneFrame (s u v : State) (blk : List Sample) : Prop where
  live : live s
  unkeyed : s.pttKeyed = false
  tags : s.cfg.tags.distinct = true
  least : 1 ≤ blk.length
  most : blk.length ≤ s.cfg.maxRxSamples
  sensed : csUpdate blk s = some u
  drawn : (drawNin u).2 = v
  admitted : ninOk s.cfg (drawNin u).1 = true
  waits : s.rxBuf.length < (drawNin u).1

/-- What such an RX_FRAME leaves but for the effect of its frame: the oldest NIN samples are consumed (R304). -/
def afterFrame (s v : State) (blk : List Sample) : State := { v with rxBuf := (s.rxBuf ++ blk).drop blk.length }

/-- ChannelSense updates in order, each an energy and a block length (R190). -/
def senseAll (c : Cfg) (updates : List (Energy × Nat)) (cs : ChannelEnergy) : ChannelEnergy :=
  updates.foldl (fun cs u => sense c u.1 u.2 cs) cs

/-- The actions of one `emit(k, samples)` (R260): none for an empty list. -/
def written (k : AudioKind) (samples : List Sample) : List Action :=
  if samples = [] then [] else [.audio k samples]

/-- The outcome of an `audio_write` in phase `s.tx.phase`, whatever it answers: on ok the phase `next`, on fail R273. -/
def afterWrite (k : AudioKind) (samples : List Sample) (next : Phase) (s : State) : State :=
  let r := drawWrite s
  if r.1 then
    { r.2 with trace := s.trace ++ [.audio k samples], tx := { s.tx with phase := next } }
  else
    { r.2 with
      trace := s.trace ++ [.audio k samples]
      log := s.log ++ [.txAudioFail s.tx.phase s.tx.index]
      tx := { s.tx with phase := .keyDown } }

/-- The queued answers keep the contracts RX_BLOCK relies on (R181, R362). -/
def answersOk (c : Cfg) (e : Env) : Prop :=
  (∀ n ∈ e.nin, ninOk c n = true) ∧ (∀ x ∈ e.energy, c.floorDb.val ≤ x.val)

end Sys2Proof.Machine
end

