-- ==== Sys2Proof/Certificates/Slice0/Obligations.lean ====
section
/-! DEFINITION. The statements for the provers. Each docstring names the rules of spec/ it formalises. -/

open Sys2Proof Sys2Proof.Machine

/-! Encodings (30_encoding.md). -/

/-- Decode and encode agree: every instruction that is well formed in a context, with every operand, decodes from its
encoding (R101, R103, R110 to R112, R121). -/
def Obligations.DecodeOfEncode : Prop :=
  ∀ (c : DecodeCtx) (i : Instr), c.tags.distinct = true → i.wf c = true →
    decodeInput c (encode c.tags i) = .ok i

/-- Each input has one meaning: what decodes to `i` is the encoding of `i`. For a packed event this is so because one with
a superfluous digit or operand is refused, which is the model's choice, log entry 20. -/
def Obligations.EncodeOfDecode : Prop :=
  ∀ (c : DecodeCtx) (x : Input) (i : Instr), c.tags.distinct = true → decodeInput c x = .ok i →
    encode c.tags i = x

/-- Words written out from the encodings of opcode_table.json decode to the instructions they stand for. -/
def Obligations.TableWordsDecode : Prop :=
  decodeTableWord 8 0b0010 = some .txStep ∧ decodeTableWord 8 0b0011 = some .txCancel
    ∧ decodeTableWord 8 0b0101 = some .mayTx ∧ decodeTableWord 8 0b0110 = some .pttStatus
    ∧ decodeTableWord 16 0b0001_0101_1110 = some (.hostByte 0x5E)
    ∧ decodeTableWord 8 0b0111_1110 = some .hostDelim ∧ decodeTableWord 8 0b0111_1101 = some .hostEsc
    ∧ decodeTableWord 8 0b00_001010 = some (.airSingle 10 { rest := List.replicate 12 0, blk := [0] })
    ∧ decodeTableWord 8 0b01_000011 = some (.airBegin 3 { rest := List.replicate 12 0, blk := [0] })
    ∧ decodeTableWord 8 0b10_000010 = some (.airFrag 2 { rest := List.replicate 12 0, blk := [0] })
    ∧ decodeTableWord 8 0b11_000101 = some (.airEnd 5 { rest := List.replicate 12 0, blk := [0] })

/-! Steps, enabling and the start of a run (R80, R120, R343, R375, R377). -/

/-- A step runs the decoded instruction: the first input that need not wait is taken out of the pending list and its
instruction is executed (log entry 1 is the model's choice of that list). -/
def Obligations.StepRunsDecodedInstruction : Prop :=
  ∀ (s : State) (before after : List Input) (x : Input) (i : Instr),
    s.pending = before ++ x :: after → (∀ y ∈ before, inputWaits s y = true) →
    decodeInput (decodeCtx s) x = .ok i → waits i s = false →
    step s = exec i { s with pending := before ++ after }

/-- After a fatal boot no event is enabled: whatever events but a new BOOT are pending, the state is held (R375). -/
def Obligations.FatalBootStopsBlock : Prop :=
  ∀ s : State, s.booted = true → s.fatal ≠ none →
    (∀ x ∈ s.pending, ∃ i, decodeInput (decodeCtx s) x = .ok i ∧ ∀ a, i ≠ .boot a) →
    step s = .next s

/-- Every event but BOOT is refused before BOOT (R377). -/
def Obligations.EventsBeforeBootRefused : Prop :=
  ∀ (i : Instr) (s : State), s.booted = false → (∀ a, i ≠ .boot a) → exec i s = .refused .beforeBoot

/-- An unused event code is refused by the step that takes it (R121). -/
def Obligations.UnusedEventCodesRefused : Prop :=
  ∀ (s : State) (code : Nibble) (digits : List Nibble) (oob : Oob) (after : List Input),
    7 ≤ code.toNat → s.pending = .event (code :: digits) oob :: after →
    step s = .refused (.notAnInstruction .unusedCode)

/-- Events that are not enabled wait: a host byte under BLOCK with a full queue (R145), TX_STEP in IDLE with an empty
queue (R261). That the waiting event leaves the state as it is and stays pending is the model's form of a hold (log
entry 5). -/
def Obligations.DisabledEventsWait : Prop :=
  ∀ (s : State) (i : Instr), live s →
    ((s.cfg.txqPolicy = .block ∧ s.cfg.txqDepth ≤ s.tx.queue.length
        ∧ (i = .hostDelim ∨ i = .hostEsc ∨ ∃ b, i = .hostByte b ∨ i = .hostEscaped b ∨ i = .hostData b))
      ∨ (s.tx.phase = .idle ∧ s.tx.queue = [] ∧ i = .txStep)) →
    exec i s = .next s ∧ waits i s = true

/-- No deadlock: in every state that is not stopped RX_BLOCK and TX_CANCEL need not wait, and HOST_BYTE or TX_STEP need
not (R389). -/
def Obligations.SomeHostEventEnabled : Prop :=
  ∀ (s : State) (blk : List Sample) (b : Byte), live s → 1 ≤ s.cfg.txqDepth →
    waits (.rxBlock blk) s = false ∧ waits .txCancel s = false
      ∧ (waits (.hostByte b) s = false ∨ waits .txStep s = false)

/-! BOOT (70_reset_and_hazards.md). -/

/-- A BOOT whose acquisitions all succeed leaves the reset state of R59 and R373 with the modem's answers in the
configuration and the PTT unkeyed (R371, R374). -/
def Obligations.BootSetsResetState : Prop :=
  ∀ (a : Args) (s : State) (bits mtx mrx : Nat) (e : Env), argsOk a = true →
    4 ≤ bits / 8 → bits / 8 ≤ 66 → 1 ≤ mtx → 1 ≤ mrx →
    s.env = { e with
      modemOpen := true :: e.modemOpen, bitsPerFrame := bits :: e.bitsPerFrame, maxTx := mtx :: e.maxTx,
      maxRx := mrx :: e.maxRx, pttAcquire := true :: e.pttAcquire, audioOut := true :: e.audioOut,
      audioIn := true :: e.audioIn } →
    exec (.boot a) s = .next
      { cfg := { toArgs := a, bitsPerFrame := bits, maxTxSamples := mtx, maxRxSamples := mrx }
        hf := { inFrame := false, escape := false, buf := [] }
        cs := { smoothed := a.floorDb, quiet := 0, allowed := false }
        af := { lastTag := .single, lastId := 0, acc := [] }
        tx := { phase := .idle, frames := [], index := 0, polls := 0, queue := [] }
        pttKeyed := false, rxBuf := [], hostOut := [], trace := [.ptt false], log := [], fatal := none
        booted := true, replies := [], pending := s.pending, env := e, drawn := s.drawn }

/-- A failed acquisition is logged, recorded in `fatal` and ends the boot; the PTT line is unkeyed if it was acquired
(R375), in the order modem, PTT, audio output, audio input (R371). -/
def Obligations.FailedAcquisitionIsFatal : Prop :=
  ∀ (a : Args) (s : State) (bits mtx mrx : Nat) (m p o : Bool), argsOk a = true →
    4 ≤ bits / 8 → bits / 8 ≤ 66 → 1 ≤ mtx → 1 ≤ mrx →
    s.env.modemOpen.head? = some m → s.env.bitsPerFrame.head? = some bits → s.env.maxTx.head? = some mtx →
    s.env.maxRx.head? = some mrx → s.env.pttAcquire.head? = some p → s.env.audioOut.head? = some o →
    s.env.audioIn.head? = some false →
    ∃ t, exec (.boot a) s = .next t ∧ t.pttKeyed = false ∧
      (if m = false then t.fatal = some .modem ∧ t.log = [.resource .modem] ∧ t.trace = []
       else if p = false then t.fatal = some .ptt ∧ t.log = [.resource .ptt] ∧ t.trace = []
       else if o = false then t.fatal = some .audioOut ∧ t.log = [.resource .audioOut] ∧ t.trace = [.ptt false]
       else t.fatal = some .audioIn ∧ t.log = [.resource .audioIn] ∧ t.trace = [.ptt false])

/-- Arguments that break a well-formedness condition are refused (R8, R10, R11, R384), and so is a geometry outside
`1 ≤ P ≤ 63` or a zero sample limit (R372). -/
def Obligations.IllFormedConfigurationRefused : Prop :=
  ∀ (a : Args) (s : State),
    ((a.hostMtu = 0 ∨ a.txqDepth = 0 ∨ a.upperDb.val ≤ a.lowerDb.val ∨ a.alpha.val ≤ 0 ∨ 1 < a.alpha.val
        ∨ a.leadInSamples ≤ a.leadOutSamples ∨ a.tags.distinct = false) →
      exec (.boot a) s = .refused .configuration)
    ∧ (∀ bits mtx mrx : Nat, argsOk a = true →
        s.env.modemOpen.head? = some true → s.env.bitsPerFrame.head? = some bits →
        s.env.maxTx.head? = some mtx → s.env.maxRx.head? = some mrx →
        (bits / 8 < 4 ∨ 66 < bits / 8 ∨ mtx = 0 ∨ mrx = 0) →
        exec (.boot a) s = .refused .geometry)

/-- A BOOT is a fresh run: nothing of the block's state before it survives (R370). Only the model's own record of the
environment is read (log entry 18). -/
def Obligations.BootForgetsThePast : Prop :=
  ∀ (a : Args) (s u : State), s.pending = u.pending → s.env = u.env → s.drawn = u.drawn →
    exec (.boot a) s = exec (.boot a) u

/-! HostFramer (41_host_framer.md). -/

/-- In idle every byte but 0x7E is ignored and no state changes (R141); 0x7E opens a frame (R142). -/
def Obligations.IdleWaitsForDelimiter : Prop :=
  ∀ s : State, live s → hostReady s = true → s.hf.inFrame = false →
    (∀ b : Byte, b ≠ 0x7E → exec (.hostByte b) s = .next s ∧ exec (.hostData b) s = .next s)
    ∧ exec .hostEsc s = .next s
    ∧ exec (.hostByte 0x7E) s = .next { s with hf := { inFrame := true, escape := false, buf := [] } }
    ∧ exec .hostDelim s = .next { s with hf := { inFrame := true, escape := false, buf := [] } }

/-- In a frame 0x7E ends it, whether or not an escape is pending: an empty frame delivers nothing, another is queued as
one packet, dropping the oldest of a full queue (R143, R145), and a new frame is open. -/
def Obligations.DelimiterDeliversFrame : Prop :=
  ∀ (s : State) (i : Instr), live s → hostReady s = true → s.hf.inFrame = true →
    (i = .hostByte 0x7E ∨ i = .hostDelim) →
    (s.hf.buf = [] → exec i s = .next { s with hf := { inFrame := true, escape := false, buf := [] } })
    ∧ (s.hf.buf ≠ [] → s.tx.queue.length < s.cfg.txqDepth →
        exec i s = .next { s with
          hf := { inFrame := true, escape := false, buf := [] }
          tx := { s.tx with queue := s.tx.queue ++ [s.hf.buf] } })
    ∧ (∀ oldest others, s.hf.buf ≠ [] → s.cfg.txqDepth ≤ s.tx.queue.length → s.tx.queue = oldest :: others →
        exec i s = .next { s with
          hf := { inFrame := true, escape := false, buf := [] }
          tx := { s.tx with queue := others ++ [s.hf.buf] }
          log := s.log ++ [.txqDrop oldest.length] })

/-- In a frame with no escape pending 0x7D sets the escape and appends nothing (R146). -/
def Obligations.EscapeByteSetsEscape : Prop :=
  ∀ s : State, live s → hostReady s = true → s.hf.inFrame = true → s.hf.escape = false →
    exec (.hostByte 0x7D) s = .next { s with hf := { s.hf with escape := true } }
      ∧ exec .hostEsc s = .next { s with hf := { s.hf with escape := true } }

/-- In a frame with an escape pending every byte but 0x7E is unmasked by the table of R147 and put, with the overflow
check of R144; 0x7D is such a byte too. -/
def Obligations.EscapedByteIsUnmasked : Prop :=
  ∀ (s : State) (b : Byte) (i : Instr), live s → hostReady s = true → s.hf.inFrame = true → s.hf.escape = true →
    b ≠ 0x7E → (i = .hostByte b ∨ i = .hostEscaped b) →
    (s.hf.buf.length ≠ s.cfg.hostMtu →
      exec i s = .next { s with hf := {
        inFrame := true, escape := false,
        buf := s.hf.buf ++ [if b = 0x5E then 0x7E else if b = 0x5D then 0x7D else b] } })
    ∧ (s.hf.buf.length = s.cfg.hostMtu →
      exec i s = .next { s with
        hf := { inFrame := false, escape := false, buf := [] }
        log := s.log ++ [.hostOverflow (s.cfg.hostMtu + 1)] })

/-- In a frame with no escape pending every byte but 0x7E and 0x7D is appended; the byte that would make the packet
`HOST_MTU + 1` long discards the partial frame, goes idle and is logged (R144). -/
def Obligations.DataByteIsAppended : Prop :=
  ∀ (s : State) (b : Byte) (i : Instr), live s → hostReady s = true → s.hf.inFrame = true → s.hf.escape = false →
    b ≠ 0x7E → b ≠ 0x7D → (i = .hostByte b ∨ i = .hostData b) →
    (s.hf.buf.length ≠ s.cfg.hostMtu → exec i s = .next { s with hf := { s.hf with buf := s.hf.buf ++ [b] } })
    ∧ (s.hf.buf.length = s.cfg.hostMtu →
      exec i s = .next { s with
        hf := { inFrame := false, escape := false, buf := [] }
        log := s.log ++ [.hostOverflow (s.cfg.hostMtu + 1)] })

/-- A byte class given as an instruction has the effect that HOST_BYTE has for its byte, in every state: the class is
the decoder's reading of the byte (R103), and a byte that is not in its class where it arrives is read by the state
(R141, R147). That last part is the model's choice, log entry 11. -/
def Obligations.ByteClassesAreHostBytes : Prop :=
  ∀ (s : State) (b : Byte),
    exec .hostDelim s = exec (.hostByte 0x7E) s ∧ exec .hostEsc s = exec (.hostByte 0x7D) s
      ∧ exec (.hostEscaped b) s = exec (.hostByte b) s ∧ exec (.hostData b) s = exec (.hostByte b) s

/-- The length of a wire frame (R151). -/
def Obligations.HostEncodeLength : Prop :=
  ∀ p : Packet,
    (hostEncode p).length = p.length + 2 + p.countP (fun b => b = 0x7E || b = 0x7D)
      ∧ (hostEncode p).length ≤ 2 * p.length + 2

/-- The host framer's round trip (R152): the wire bytes of a packet, given as HOST_BYTE events to a block whose decoder
is idle or in an empty frame, deliver exactly that packet and change nothing else; with a full queue under DROP_OLDEST
the oldest packet makes room for it (R145). -/
def Obligations.HostFramerRoundTrip : Prop :=
  ∀ (s : State) (p : Packet), live s → hostReady s = true → 1 ≤ p.length → p.length ≤ s.cfg.hostMtu →
    (s.hf.inFrame = false ∨ s.hf.buf = []) →
    (s.tx.queue.length < s.cfg.txqDepth →
      execAll ((hostEncode p).map .hostByte) s = .next { s with
        hf := { inFrame := true, escape := false, buf := [] }
        tx := { s.tx with queue := s.tx.queue ++ [p] } })
    ∧ (∀ oldest others, s.cfg.txqDepth ≤ s.tx.queue.length → s.tx.queue = oldest :: others →
      execAll ((hostEncode p).map .hostByte) s = .next { s with
        hf := { inFrame := true, escape := false, buf := [] }
        tx := { s.tx with queue := others ++ [p] }
        log := s.log ++ [.txqDrop oldest.length] })

/-! ChannelSense and the queries (42_channel_sense.md, 60_exceptions.md). -/

/-- MAY_TX returns the permission (R188) and PTT_STATUS the value the block last issued (R363), and neither changes
anything else. Where the results are recorded is log entry 14. -/
def Obligations.QueriesReturnRegisters : Prop :=
  ∀ s : State, live s →
    exec .mayTx s = .next { s with replies := s.replies ++ [.mayTx s.cs.allowed] }
      ∧ exec .pttStatus s = .next { s with replies := s.replies ++ [.pttStatus s.pttKeyed] }

/-- What a received block does to the gate. An empty block changes nothing (R182). Another is smoothed in with its energy
(R183), and the smoothed value revokes, counts or holds (R184 to R187). The energy is FLOOR_DB for a silent block, else
the one a trace gives (R122), else by the default function the formula of R181; it is never below FLOOR_DB. -/
def Obligations.ReceivedBlockMovesGate : Prop :=
  ∀ (s t : State) (blk : List Sample), live s → s.pttKeyed = false → exec (.rxBlock blk) s = .next t →
    (blk = [] → t.cs = s.cs)
    ∧ (blk ≠ [] →
      let e := (blockEnergy blk s).1
      s.cfg.floorDb.val ≤ e.val
        ∧ ((∀ x ∈ blk, x = 0) → e = s.cfg.floorDb)
        ∧ (∀ a more, (∃ x ∈ blk, x ≠ 0) → s.env.energy = a :: more → e = a)
        ∧ ((∃ x ∈ blk, x ≠ 0) → s.env.energy = [] → s.cfg.energyFn = .meanSquare →
          e.val = max s.cfg.floorDb.val
            (10 * Real.logb 10 ((blk.map fun x => (x.toInt : ℝ) ^ 2).sum / (blk.length * 32768 ^ 2))))
        ∧ t.cs.smoothed.val = (1 - s.cfg.alpha.val) * s.cs.smoothed.val + s.cfg.alpha.val * e.val
        ∧ (s.cfg.upperDb.val < t.cs.smoothed.val → t.cs.quiet = 0 ∧ t.cs.allowed = false)
        ∧ (t.cs.smoothed.val ≤ s.cfg.upperDb.val → t.cs.smoothed.val < s.cfg.lowerDb.val →
          t.cs.quiet = s.cs.quiet + blk.length
            ∧ (t.cs.allowed = true ↔ s.cfg.dwellSamples < s.cs.quiet + blk.length ∨ s.cs.allowed = true))
        ∧ (s.cfg.lowerDb.val ≤ t.cs.smoothed.val → t.cs.smoothed.val ≤ s.cfg.upperDb.val →
          t.cs.quiet = s.cs.quiet ∧ t.cs.allowed = s.cs.allowed))

/-- The dwell property (R190): through updates that are all quiet, permission is there exactly when the cumulative count
exceeds the dwell. -/
def Obligations.PermissionAfterDwell : Prop :=
  ∀ (c : Cfg) (cs : ChannelEnergy) (us : List (Energy × Nat)), c.lowerDb.val < c.upperDb.val → cs.allowed = false →
    us ≠ [] → (∀ k, k < us.length → (senseAll c (us.take (k + 1)) cs).smoothed.val < c.lowerDb.val) →
    ((senseAll c us cs).allowed = true ↔ c.dwellSamples < cs.quiet + (us.map (·.2)).sum)

/-- The hazard of the floor (R192): with `FLOOR_DB ≥ LOWER_DB` permission is never granted after reset. -/
def Obligations.NoPermissionAboveFloor : Prop :=
  ∀ (c : Cfg) (us : List (Energy × Nat)), argsOk c.toArgs = true → c.lowerDb.val ≤ c.floorDb.val →
    (∀ u ∈ us, c.floorDb.val ≤ u.1.val) → (senseAll c us (ChannelEnergy.reset c)).allowed = false

/-! AirFramer (43_air_framer.md). -/

/-- An air frame as an instruction is the RX_BLOCK of R123's expansion of RX_FRAME: a block whose draws are NIN, its
length, and DEMOD, the frame. While the PTT is keyed it is discarded with no draw (R301). That the AIR rows of the table
are these events is the model's reading, log entry 12. -/
def Obligations.AirFramesAreReceivedBlocks : Prop :=
  ∀ (s : State) (k : AirKind) (f : Field) (rest : List Byte) (blk : List Sample), live s →
    (s.pttKeyed = true → exec (airInstr k f rest blk) s = .next s)
    ∧ (s.pttKeyed = false → exec (airInstr k f rest blk) s
        = exec (.rxBlock blk) (s.answerFrame blk.length (airHeader s.cfg.tags k f :: rest)))

/-- A SINGLE frame of the right size delivers its packet and does not touch the reassembly (R222, R305). As an instruction
it is an RX_FRAME: log entry 12. -/
def Obligations.SingleFrameDelivers : Prop :=
  ∀ (s u v : State) (len : Field) (rcv : Received), OneFrame s u v rcv.blk →
    rcv.rest.length + 1 = airF s.cfg → len.toNat ≤ airP s.cfg →
    exec (.airSingle len rcv) s = .next { afterFrame s v rcv.blk with
      hostOut := s.hostOut ++ hostEncode (rcv.rest.take len.toNat) }

/-- A BEGIN frame starts a fresh reassembly, whatever was in progress (R223). As an instruction it is an RX_FRAME: log
entry 12. -/
def Obligations.BeginFrameRestarts : Prop :=
  ∀ (s u v : State) (fid : Field) (rcv : Received), OneFrame s u v rcv.blk →
    rcv.rest.length + 1 = airF s.cfg →
    exec (.airBegin fid rcv) s = .next { afterFrame s v rcv.blk with
      af := { lastTag := .begin1, lastId := fid.zeroExtend 8, acc := rcv.rest.take (airP s.cfg) } }

/-- A FRAG frame is accepted when it follows a BEGIN or FRAG and its id is one less than the last (R224); any other FRAG
is logged as a loss and resets the reassembly (R225). As an instruction it is an RX_FRAME: log entry 12. -/
def Obligations.FragFrameCountsDown : Prop :=
  ∀ (s u v : State) (fid : Field) (rcv : Received), OneFrame s u v rcv.blk →
    rcv.rest.length + 1 = airF s.cfg →
    exec (.airFrag fid rcv) s = .next
      (if (s.af.lastTag = .begin1 ∨ s.af.lastTag = .frag) ∧ (fid.toNat : Int) = (s.af.lastId.toNat : Int) - 1 then
        { afterFrame s v rcv.blk with
          af := { lastTag := .frag, lastId := fid.zeroExtend 8, acc := s.af.acc ++ rcv.rest.take (airP s.cfg) } }
      else
        { afterFrame s v rcv.blk with
          af := { lastTag := .single, lastId := 0, acc := [] }
          log := s.log ++ [.fragLoss .frag fid.toNat s.af.lastTag s.af.lastId.toNat] })

/-- An END frame of admitted length completes the packet when it follows a BEGIN or FRAG and the last id is 1 (R226);
any other END of admitted length is logged as a loss (R227); both reset the reassembly (R228). As an instruction it is an
RX_FRAME: log entry 12. -/
def Obligations.EndFrameCompletesOrResets : Prop :=
  ∀ (s u v : State) (len : Field) (rcv : Received), OneFrame s u v rcv.blk →
    rcv.rest.length + 1 = airF s.cfg → len.toNat ≤ airP s.cfg →
    exec (.airEnd len rcv) s = .next
      (if (s.af.lastTag = .begin1 ∨ s.af.lastTag = .frag) ∧ s.af.lastId = 1 then
        { afterFrame s v rcv.blk with
          af := { lastTag := .single, lastId := 0, acc := [] }
          hostOut := s.hostOut ++ hostEncode (s.af.acc ++ rcv.rest.take len.toNat) }
      else
        { afterFrame s v rcv.blk with
          af := { lastTag := .single, lastId := 0, acc := [] }
          log := s.log ++ [.fragLoss .end1 0 s.af.lastTag s.af.lastId.toNat] })

/-- A length above `P` drops the frame: a SINGLE leaves the reassembly, an END resets it, and neither checks the
sequence first (R229). As an instruction the frame is an RX_FRAME: log entry 12. -/
def Obligations.LengthAbovePayloadDropped : Prop :=
  ∀ (s u v : State) (len : Field) (rcv : Received), OneFrame s u v rcv.blk →
    rcv.rest.length + 1 = airF s.cfg → airP s.cfg < len.toNat →
    exec (.airSingle len rcv) s = .next { afterFrame s v rcv.blk with
        log := s.log ++ [.badLength .single len.toNat] }
      ∧ exec (.airEnd len rcv) s = .next { afterFrame s v rcv.blk with
          log := s.log ++ [.badLength .end1 len.toNat]
          af := { lastTag := .single, lastId := 0, acc := [] } }

/-- A byte list that DEMOD yields and that is not `F` bytes long, the empty list too, is dropped and logged, the
reassembly untouched (R221); so is such a frame as an instruction, an RX_FRAME (log entry 12). -/
def Obligations.WrongFrameSizeDropped : Prop :=
  ∀ (s u v : State) (blk : List Sample), OneFrame s u v blk →
    (∀ frame : Frame, frame.length ≠ airF s.cfg →
      exec (.rxBlock blk) (s.answerFrame blk.length frame) = .next { afterFrame s v blk with
        log := s.log ++ [.badFrameSize frame.length] })
    ∧ (∀ (k : AirKind) (f : Field) (rest : List Byte), rest.length + 1 ≠ airF s.cfg →
      exec (airInstr k f rest blk) s = .next { afterFrame s v blk with
        log := s.log ++ [.badFrameSize (rest.length + 1)] })

/-- The CRC is not checked: frames of `F` bytes that differ only after their payload have the same effect, in every state
(R230). As an instruction the frame is an RX_FRAME: log entry 12. -/
def Obligations.CrcIsNotChecked : Prop :=
  ∀ (s : State) (k : AirKind) (f : Field) (r u : List Byte) (blk : List Sample),
    r.length + 1 = airF s.cfg → u.length + 1 = airF s.cfg → r.take (airP s.cfg) = u.take (airP s.cfg) →
    exec (airInstr k f r blk) s = exec (airInstr k f u blk) s

/-- What AirFramer.encode produces (R212, R213): for a packet of at most `64 * P` bytes, one frame or `ceil(n / P)` of
them, at most 64; for a longer packet nothing. Each frame is its header, the payload zero-padded to `P` bytes (R114) and
the CRC of these `F - 2` bytes in CRC_ORDER (R74, R116, R210), `F` bytes in all (R110). -/
def Obligations.AirEncodeFrames : Prop :=
  ∀ (c : Cfg) (p : Packet), cfgOk c = true →
    (64 * airP c < p.length → airEncode c p = none)
    ∧ (p.length ≤ 64 * airP c → ∃ fs, airEncode c p = some fs ∧ 1 ≤ fs.length ∧ fs.length ≤ 64
        ∧ (p.length ≤ airP c → fs.length = 1)
        ∧ (airP c < p.length → (fs.length - 1) * airP c < p.length ∧ p.length ≤ fs.length * airP c)
        ∧ ∀ j, j < fs.length →
          let header := if fs.length = 1 then airHeader c.tags .single (BitVec.ofNat 6 p.length)
            else multiHeader c p.length fs.length j
          let padding := List.replicate (airP c - (payloadOf c p j).length) 0
          let body := header :: (payloadOf c p j ++ padding)
          let crc := crc16 c body
          body.length = airF c - 2
            ∧ fs[j]? = some (body ++ match c.crcOrder with
              | .big => [crc.extractLsb' 8 8, crc.extractLsb' 0 8]
              | .little => [crc.extractLsb' 0 8, crc.extractLsb' 8 8]))

/-- The SINGLE round trip (R231), from any reassembly state, which is left as it was. -/
def Obligations.SingleFrameRoundTrip : Prop :=
  ∀ (s : State) (p : Packet), cfgOk s.cfg = true → p.length ≤ airP s.cfg →
    ∃ f, airEncode s.cfg p = some [f] ∧ airDecode f s = (s, some p)

/-- The multi-frame round trip (R232): from any reassembly state every frame but the last returns nothing, the last
returns the packet, and the reassembly ends in its reset state; the ids of the frames count down to 1. -/
def Obligations.MultiFrameRoundTrip : Prop :=
  ∀ (s : State) (p : Packet), cfgOk s.cfg = true → airP s.cfg < p.length → p.length ≤ 64 * airP s.cfg →
    ∃ fs, airEncode s.cfg p = some fs ∧ 2 ≤ fs.length
      ∧ (∀ j, j < fs.length → (fs[j]?.bind List.head?) = some (multiHeader s.cfg p.length fs.length j))
      ∧ decodeAll fs s = ({ s with af := { lastTag := .single, lastId := 0, acc := [] } },
          List.replicate (fs.length - 1) none ++ [some p])

/-- Loss detection (R233), for the `k` frames of a multi-frame packet. With one FRAG dropped, the next frame and every
later one is logged as E_FRAG_LOSS, each with what it met, nothing is completed and the reassembly ends in its reset
state. With the BEGIN dropped, and no reassembly in progress, every frame is logged so. With the END dropped nothing is
completed or logged and the partial reassembly stays. -/
def Obligations.LostFrameDetected : Prop :=
  ∀ (s : State) (p : Packet) (fs : List Frame), cfgOk s.cfg = true → airP s.cfg < p.length →
    airEncode s.cfg p = some fs →
    (∀ j, 1 ≤ j → j + 1 < fs.length →
      decodeAll (fs.eraseIdx j) s =
        ({ s with
            af := { lastTag := .single, lastId := 0, acc := [] }
            log := s.log ++ lossOf fs.length (j + 1) (if j = 1 then .begin1 else .frag) (fs.length - j)
              :: (List.range (fs.length - j - 2)).map fun i => lossOf fs.length (j + 2 + i) .single 0 },
          List.replicate (fs.length - 1) none))
    ∧ (s.af.lastTag = .single → s.af.lastId = 0 →
      decodeAll (fs.drop 1) s =
        ({ s with
            af := { lastTag := .single, lastId := 0, acc := [] }
            log := s.log ++ (List.range (fs.length - 1)).map fun i => lossOf fs.length (1 + i) .single 0 },
          List.replicate (fs.length - 1) none))
    ∧ decodeAll fs.dropLast s =
        ({ s with af := {
            lastTag := if fs.length = 2 then .begin1 else .frag
            lastId := 1, acc := p.take ((fs.length - 1) * airP s.cfg) } },
          List.replicate (fs.length - 1) none)

/-! TransmitSequencer (44_transmit_sequencer.md). -/

/-- In IDLE the oldest packet is taken: it is fragmented and the PTT is not touched (R262), or, if it is longer than
`64 * P`, dropped and logged, the phase still IDLE (R263). -/
def Obligations.IdleTakesOldestPacket : Prop :=
  ∀ (s : State) (p : Packet) (queue : List Packet), live s → s.tx.phase = .idle → s.tx.queue = p :: queue →
    (p.length ≤ 64 * airP s.cfg →
      ∃ fs, airEncode s.cfg p = some fs ∧ exec .txStep s = .next { s with
        tx := { phase := .waitChannelFree, frames := fs, index := 0, polls := 0, queue := queue } })
    ∧ (64 * airP s.cfg < p.length →
      exec .txStep s = .next { s with tx := { s.tx with queue := queue }, log := s.log ++ [.tooLong p.length] })

/-- A failed channel poll counts, and at the limit, where there is one, the packet is dropped (R264). -/
def Obligations.FailedPollCounts : Prop :=
  ∀ s : State, live s → s.tx.phase = .waitChannelFree → s.cs.allowed = false →
    (s.cfg.channelWaitLimit = none →
      exec .txStep s = .next { s with tx := { s.tx with polls := s.tx.polls + 1 } })
    ∧ (∀ m, s.cfg.channelWaitLimit = some m → s.tx.polls + 1 < m →
      exec .txStep s = .next { s with tx := { s.tx with polls := s.tx.polls + 1 } })
    ∧ (∀ m, s.cfg.channelWaitLimit = some m → m ≤ s.tx.polls + 1 →
      exec .txStep s = .next { s with
        tx := { phase := .idle, frames := [], index := 0, polls := 0, queue := s.tx.queue }
        log := s.log ++ [.waitLimit m] })

/-- With permission the PTT is keyed in the same event, and the permission is kept (R265). -/
def Obligations.PermittedPollKeysUp : Prop :=
  ∀ s : State, live s → s.tx.phase = .waitChannelFree → s.cs.allowed = true →
    exec .txStep s = .next { s with
      trace := s.trace ++ [.ptt true], pttKeyed := true, tx := { s.tx with phase := .keyedLeadIn } }

/-- KEYED_LEAD_IN and LEAD_OUT write silence of the configured length, in one write whatever it answers, and nothing for
length zero (R266, R270, R273). -/
def Obligations.LeadsWriteSilence : Prop :=
  ∀ s : State, live s →
    (s.tx.phase = .keyedLeadIn → exec .txStep s = .next
      (if s.cfg.leadInSamples = 0 then { s with tx := { s.tx with phase := .preamble } }
       else afterWrite .leadIn (List.replicate s.cfg.leadInSamples 0) .preamble s))
    ∧ (s.tx.phase = .leadOut → exec .txStep s = .next
      (if s.cfg.leadOutSamples = 0 then { s with tx := { s.tx with phase := .drain } }
       else afterWrite .leadOut (List.replicate s.cfg.leadOutSamples 0) .drain s))

/-- PREAMBLE and POSTAMBLE write what the modem answers, and nothing if it answers no sample (R267, R269, R273). -/
def Obligations.ModemAmblesWritten : Prop :=
  ∀ s : State, live s →
    (s.tx.phase = .preamble → exec .txStep s = .next
      (if (drawPre s).1 = [] then { (drawPre s).2 with tx := { s.tx with phase := .frameEmit } }
       else afterWrite .preamble (drawPre s).1 .frameEmit (drawPre s).2))
    ∧ (s.tx.phase = .postamble → exec .txStep s = .next
      (if (drawPost s).1 = [] then { (drawPost s).2 with tx := { s.tx with phase := .leadOut } }
       else afterWrite .postamble (drawPost s).1 .leadOut (drawPost s).2))

/-- FRAME_EMIT writes the modulated samples of the next frame and moves the index on, leaving the phase after the last
frame; an empty answer writes nothing; a failed write leads to KEY_DOWN (R268, R273). That the index then stays is the
model's reading (log entry 15). -/
def Obligations.FrameEmitWritesNextFrame : Prop :=
  ∀ (s u v : State) (f : Frame) (samples : List Sample) (ok : Bool), live s → s.tx.phase = .frameEmit →
    s.tx.frames[s.tx.index]? = some f → drawMod f s = (samples, u) → samples.length ≤ s.cfg.maxTxSamples →
    drawWrite u = (ok, v) →
    let moved : Transmit := { s.tx with
      index := s.tx.index + 1
      phase := if s.tx.index + 1 = s.tx.frames.length then .postamble else .frameEmit }
    exec .txStep s = .next
      (if samples = [] then { u with tx := moved }
       else if ok then { v with trace := s.trace ++ [.audio .frame samples], tx := moved }
       else { v with
        trace := s.trace ++ [.audio .frame samples]
        log := s.log ++ [.txAudioFail .frameEmit s.tx.index]
        tx := { s.tx with phase := .keyDown } })

/-- DRAIN asks `drained()` and goes to KEY_DOWN on true only (R271). -/
def Obligations.DrainPolls : Prop :=
  ∀ s : State, live s → s.tx.phase = .drain →
    exec .txStep s = .next (if (drawDrained s).1 then { (drawDrained s).2 with tx := { s.tx with phase := .keyDown } }
      else (drawDrained s).2)

/-- KEY_DOWN unkeys the PTT, clears the packet and goes to IDLE (R272). -/
def Obligations.KeyDownUnkeys : Prop :=
  ∀ s : State, live s → s.tx.phase = .keyDown →
    exec .txStep s = .next { s with
      trace := s.trace ++ [.ptt false], pttKeyed := false
      tx := { phase := .idle, frames := [], index := 0, polls := 0, queue := s.tx.queue } }

/-- TX_CANCEL drops all queued packets and is logged; before key-up it drops the current packet too and goes to IDLE
(R274), after key-up it leads to KEY_DOWN with the PTT still keyed (R275). -/
def Obligations.CancelDropsPackets : Prop :=
  ∀ s : State, live s → exec .txCancel s = .next { s with
    log := s.log ++ [.cancel s.tx.phase s.tx.queue.length]
    tx := if s.tx.phase = .idle ∨ s.tx.phase = .waitChannelFree then
        { phase := .idle, frames := [], index := 0, polls := 0, queue := [] }
      else { s.tx with phase := .keyDown, queue := [] } }

/-- The trace of one packet (R278): with permission at the first poll, every write ok, `drained()` true at poll `d + 1`
and no cancel, a packet of `k` frames takes `k + d + 8` TX_STEPs, and the actions are exactly these. -/
def Obligations.PacketTransmissionTrace : Prop :=
  ∀ (s : State) (p : Packet) (queue : List Packet) (fs : List Frame) (pre post : List Sample)
    (mods more : List (List Sample)) (d : Nat) (later : List Bool),
    live s → s.tx.phase = .idle → s.tx.queue = p :: queue → airEncode s.cfg p = some fs →
    s.cs.allowed = true → s.env.pre.head? = some pre → s.env.post.head? = some post →
    s.env.modulated = mods ++ more → mods.length = fs.length → (∀ m ∈ mods, m.length ≤ s.cfg.maxTxSamples) →
    s.env.drained = List.replicate d false ++ true :: later → fs.length + 4 ≤ s.env.write.length →
    (∀ b ∈ s.env.write, b = true) →
    ∃ t, execAll (List.replicate (fs.length + d + 8) .txStep) s = .next t
      ∧ t.trace = s.trace ++ [.ptt true] ++ written .leadIn (List.replicate s.cfg.leadInSamples 0)
          ++ written .preamble pre ++ mods.flatMap (written .frame) ++ written .postamble post
          ++ written .leadOut (List.replicate s.cfg.leadOutSamples 0) ++ [.ptt false]
      ∧ t.tx = { phase := .idle, frames := [], index := 0, polls := 0, queue := queue }
      ∧ t.pttKeyed = false ∧ t.log = s.log ∧ t.cs = s.cs ∧ t.hf = s.hf ∧ t.rxBuf = s.rxBuf ∧ t.af = s.af
      ∧ t.hostOut = s.hostOut

/-- The PTT is keyed only by a TX_STEP that reads permission, and unkeyed only by the KEY_DOWN step or a new BOOT (R380,
R381). -/
def Obligations.PttChangesOnlyAsAllowed : Prop :=
  ∀ (i : Instr) (s t : State), exec i s = .next t →
    (s.pttKeyed = false → t.pttKeyed = true →
      i = .txStep ∧ s.tx.phase = .waitChannelFree ∧ s.cs.allowed = true)
    ∧ (s.pttKeyed = true → t.pttKeyed = false →
      (i = .txStep ∧ s.tx.phase = .keyDown) ∨ ∃ a, i = .boot a)

/-! ReceiveSequencer (45_receive_sequencer.md). -/

/-- While the PTT is keyed the whole block is discarded and no state changes (R301). -/
def Obligations.KeyedBlockDiscarded : Prop :=
  ∀ (s : State) (blk : List Sample), live s → s.pttKeyed = true → exec (.rxBlock blk) s = .next s

/-- With answers inside their contracts RX_BLOCK completes; it leaves fewer samples than the last NIN can ask for, and
they are the newest ones, in order (R303, R304, R49). -/
def Obligations.RxBlockCompletes : Prop :=
  ∀ (s : State) (blk : List Sample), live s → answersOk s.cfg s.env → 1 ≤ s.cfg.maxRxSamples →
    ∃ t, exec (.rxBlock blk) s = .next t
      ∧ (s.pttKeyed = false → t.rxBuf.length < s.cfg.maxRxSamples ∧ t.rxBuf <:+ s.rxBuf ++ blk)

/-- A block after which the buffer is shorter than NIN is sensed and buffered, and nothing is demodulated (R302,
R303). -/
def Obligations.ShortBufferWaits : Prop :=
  ∀ (s u v : State) (blk : List Sample) (n : Nat), live s → s.pttKeyed = false → csUpdate blk s = some u →
    drawNin u = (n, v) → 1 ≤ n → n ≤ s.cfg.maxRxSamples → s.rxBuf.length + blk.length < n →
    exec (.rxBlock blk) s = .next { v with rxBuf := s.rxBuf ++ blk }

/-- One pass of the demodulation loop and the rest of it (R303 to R305): where the buffer with the new block holds NIN
samples, exactly the oldest NIN are handed to DEMOD and removed, a frame it yields is decoded and forwarded, and then all
goes on as an empty block would from there. A block that feeds the demodulator several times is this several times
over. -/
def Obligations.ChunkDemodulatedThenRest : Prop :=
  ∀ (s u v w : State) (blk : List Sample) (n : Nat) (r : Option Frame), live s → s.pttKeyed = false →
    csUpdate blk s = some u → drawNin u = (n, v) → 1 ≤ n → n ≤ s.cfg.maxRxSamples → n ≤ (s.rxBuf ++ blk).length →
    drawDemod ((s.rxBuf ++ blk).take n) { v with rxBuf := (s.rxBuf ++ blk).drop n } = (r, w) →
    exec (.rxBlock blk) s = exec (.rxBlock []) (match r with | none => w | some frame => receiveFrame frame w)

/-- What the receive path writes to the host is the wire form of whole packets, one after another (R305, R307). -/
def Obligations.HostOutputIsWholeFrames : Prop :=
  ∀ (i : Instr) (s t : State), exec i s = .next t → (∀ a, i ≠ .boot a) →
    ∃ packets : List Packet, t.hostOut = s.hostOut ++ packets.flatMap hostEncode

/-! The whole machine (20_memory.md R83, 45_receive_sequencer.md R308). -/

/-- The frame of the receive path: RX_BLOCK, also as an RX_FRAME (R123), writes no transmit or host-decode state
(R308). -/
def Obligations.ReceivePathFrame : Prop :=
  ∀ (i : Instr) (s t : State), exec i s = .next t → isReceive i →
    t.tx = s.tx ∧ t.pttKeyed = s.pttKeyed ∧ t.hf = s.hf ∧ t.trace = s.trace ∧ t.replies = s.replies
      ∧ t.pending = s.pending

/-- The frame of the host and transmit paths: HOST_BYTE, the byte classes, TX_STEP and TX_CANCEL write no receive state
(R308); the host path leaves the transmit machine but for its queue, and the transmit path leaves the host decoder. -/
def Obligations.HostAgentFrame : Prop :=
  ∀ (i : Instr) (s t : State), exec i s = .next t →
    ((i = .hostDelim ∨ i = .hostEsc ∨ ∃ b, i = .hostByte b ∨ i = .hostEscaped b ∨ i = .hostData b) →
      t.rxBuf = s.rxBuf ∧ t.af = s.af ∧ t.cs = s.cs ∧ t.hostOut = s.hostOut ∧ t.trace = s.trace
        ∧ t.pttKeyed = s.pttKeyed ∧ t.env = s.env ∧ t.drawn = s.drawn ∧ t.replies = s.replies
        ∧ t.pending = s.pending ∧ t.tx = { s.tx with queue := t.tx.queue })
    ∧ ((i = .txStep ∨ i = .txCancel) →
      t.rxBuf = s.rxBuf ∧ t.af = s.af ∧ t.cs = s.cs ∧ t.hostOut = s.hostOut ∧ t.hf = s.hf ∧ t.replies = s.replies
        ∧ t.pending = s.pending)

/-- No event but BOOT writes the configuration or `fatal` (R31, R53); between boots the log, the trace, the host output
and the replies are append-only (R50 to R52); an event other than RX_BLOCK adds at most one log record, a TX_CANCEL that
is enabled exactly one (R344). -/
def Obligations.RecordsAreAppendOnly : Prop :=
  ∀ (i : Instr) (s t : State), exec i s = .next t → (∀ a, i ≠ .boot a) →
    t.cfg = s.cfg ∧ t.fatal = s.fatal ∧ t.booted = s.booted
      ∧ s.log <+: t.log ∧ s.trace <+: t.trace ∧ s.hostOut <+: t.hostOut ∧ s.replies <+: t.replies
      ∧ (¬ isReceive i → t.log.length ≤ s.log.length + 1)
      ∧ (i = .txCancel → s.fatal = none → t.log.length = s.log.length + 1)

/-! Invariants (R36, R42, R44 to R49, R149, R276). -/

/-- The invariant holds at reset. -/
def Obligations.ResetKeepsTheRules : Prop := Inv State.reset

/-- The invariant of Safety.lean is kept by every step, from every state that has it. -/
def Obligations.StepKeepsInvariant : Prop :=
  ∀ s t : State, Inv s → step s = .next t → Inv t

/-- From a state with the invariant no step faults: FRAME_EMIT always has a frame left (R268). -/
def Obligations.NoFaultUnderInvariant : Prop :=
  ∀ (s : State) (f : Fault), Inv s → step s ≠ .fault f

/-- PTT safety (R276): that the PTT is keyed exactly in the keyed phases is kept by every step, with no further
premise. -/
def Obligations.PttKeyedExactlyInKeyedPhases : Prop :=
  ∀ s t : State, s.pttKeyed = s.tx.phase.keyed → step s = .next t → t.pttKeyed = t.tx.phase.keyed
end

