-- ==== Sys2Proof/Laws/Reals.lean ====
section
/-! SUPPORT. The exact reals compute what they denote: sums, products and the order. -/

namespace Sys2Proof.Machine

variable (ρ : Nat → ℝ)

theorem valWith_rat (q : ℚ) : (Energy.rat q).valWith ρ = q := by simp [Energy.valWith]

theorem sum_addTerm (t : Term) : ∀ ts : List Term,
    ((addTerm t ts).map (Term.valWith ρ)).sum = t.valWith ρ + (ts.map (Term.valWith ρ)).sum
  | [] => by
    unfold addTerm
    split
    · rename_i h; simp [Term.valWith, h]
    · simp
  | u :: us => by
    unfold addTerm
    split
    · rename_i h
      have hv : u.valWith ρ + t.valWith ρ = ((u.coef + t.coef : ℚ) : ℝ) * logValue u.log * (u.names.map ρ).prod := by
        simp only [Term.valWith, h.1, h.2]; push_cast; ring
      split
      · rename_i h0
        rw [h0] at hv
        simp only [List.map_cons, List.sum_cons]
        have : u.valWith ρ + t.valWith ρ = 0 := by rw [hv]; simp
        linarith
      · simp only [List.map_cons, List.sum_cons]
        have : Term.valWith ρ { u with coef := u.coef + t.coef } = u.valWith ρ + t.valWith ρ := by rw [hv]; rfl
        rw [this]; ring
    · simp only [List.map_cons, List.sum_cons, sum_addTerm t us]; ring

theorem sum_foldr_addTerm (ts : List Term) : ∀ us : List Term,
    ((us.foldr addTerm ts).map (Term.valWith ρ)).sum = (ts.map (Term.valWith ρ)).sum + (us.map (Term.valWith ρ)).sum
  | [] => by simp
  | u :: us => by
    simp only [List.foldr_cons, sum_addTerm, sum_foldr_addTerm ts us, List.map_cons, List.sum_cons]; ring

theorem valWith_addReal (a b : Energy) : (addReal a b).valWith ρ = a.valWith ρ + b.valWith ρ := by
  simp only [addReal, Energy.valWith, sum_foldr_addTerm]; push_cast; ring

/-- A list of terms whose values are each multiplied by `c`. -/
theorem sum_map_mul (f : Term → Term) (c : ℝ) (h : ∀ t, (f t).valWith ρ = c * t.valWith ρ) : ∀ ts : List Term,
    ((ts.map f).map (Term.valWith ρ)).sum = c * (ts.map (Term.valWith ρ)).sum
  | [] => by simp
  | t :: ts => by
    simp only [List.map_cons, List.sum_cons, h, sum_map_mul f c h ts]; ring

theorem valWith_scaleReal (q : ℚ) (a : Energy) : (scaleReal q a).valWith ρ = q * a.valWith ρ := by
  unfold scaleReal
  split
  · rename_i h; simp [valWith_rat, h]
  · simp only [Energy.valWith]
    rw [sum_map_mul ρ _ q fun t => by simp only [Term.valWith]; push_cast; ring]
    push_cast; ring

theorem valWith_timesNamed (k : Nat) (a : Energy) : (timesNamed k a).valWith ρ = ρ k * a.valWith ρ := by
  simp only [timesNamed, Energy.valWith, sum_addTerm]
  rw [sum_map_mul ρ _ (ρ k) fun t => by simp only [Term.valWith, List.map_cons, List.prod_cons]; ring]
  simp [Term.valWith, logValue]; ring

theorem valWith_weigh (w : Weight) (a : Energy) : (weigh w a).valWith ρ = w.valWith ρ * a.valWith ρ := by
  cases w
  · exact valWith_scaleReal ρ _ _
  · exact valWith_timesNamed ρ _ _

theorem valWith_subReal (a b : Energy) : (subReal a b).valWith ρ = a.valWith ρ - b.valWith ρ := by
  simp only [subReal, valWith_addReal, valWith_scaleReal]; push_cast; ring

/-! The exact order. -/

theorem logb_zpow_ten (x : ℝ) (n : ℤ) : Real.logb 10 (x ^ n) = n * Real.logb 10 x := by
  simp only [Real.logb, Real.log_zpow]; ring

/-- A rational with its denominator cleared. -/
theorem num_mul_of_dvd {q : ℚ} {n : Nat} (h : q.den ∣ n) : (((q * n).num : ℤ) : ℝ) = (q : ℝ) * n := by
  obtain ⟨m, rfl⟩ := h
  have : q * ((q.den * m : ℕ) : ℚ) = ((q.num * m : ℤ) : ℚ) := by
    push_cast
    rw [← mul_assoc, Rat.mul_den_eq_num]
  rw [this, Rat.num_intCast]
  have h2 := congrArg (fun x : ℚ => (x : ℝ)) this
  push_cast at h2 ⊢
  linarith

theorem termPower_pos (n : Nat) (t : Term) : 0 < termPower n t := by
  unfold termPower
  split
  · positivity
  · split
    · norm_num
    · rename_i num den _ h
      have h1 : 0 < num := by omega
      have h2 : 0 < den := by omega
      positivity

theorem logb_termPower {n : Nat} {t : Term} (hn : t.coef.den ∣ n) (hx : t.names = []) :
    Real.logb 10 (termPower n t : ℝ) = n * t.valWith ρ := by
  have hten : (10 * t.coef).den ∣ n := by
    refine dvd_trans ?_ hn
    have := Rat.mul_den_dvd 10 t.coef
    simpa using this
  unfold termPower Term.valWith
  rw [hx]
  split
  · rename_i hl
    push_cast
    rw [logb_zpow_ten, Real.logb_self_eq_one (by norm_num), num_mul_of_dvd hn]
    simp [hl, logValue]; ring
  · rename_i num den hl
    split
    · rename_i h0
      rw [hl]
      rcases h0 with rfl | rfl <;> simp [logValue, dbValue]
    · push_cast
      rw [logb_zpow_ten, num_mul_of_dvd hten, hl]
      simp only [logValue, dbValue]
      push_cast
      simp; ring

theorem prod_termPower_pos (n : Nat) : ∀ ts : List Term, 0 < (ts.map (termPower n)).prod
  | [] => by simp
  | t :: ts => by
    rw [List.map_cons, List.prod_cons]
    exact mul_pos (termPower_pos n t) (prod_termPower_pos n ts)

theorem logb_prod_termPower (n : Nat) : ∀ ts : List Term, (∀ t ∈ ts, t.coef.den ∣ n ∧ t.names = []) →
    Real.logb 10 (((ts.map (termPower n)).prod : ℚ) : ℝ) = n * (ts.map (Term.valWith ρ)).sum
  | [], _ => by simp
  | t :: ts, h => by
    have ht := h t (by simp)
    have h1 : ((termPower n t : ℚ) : ℝ) ≠ 0 := by exact_mod_cast (termPower_pos n t).ne'
    have h2 : (((ts.map (termPower n)).prod : ℚ) : ℝ) ≠ 0 := by exact_mod_cast (prod_termPower_pos n ts).ne'
    rw [List.map_cons, List.prod_cons, List.map_cons, List.sum_cons]
    push_cast only [Rat.cast_mul]
    rw [Real.logb_mul h1 h2, logb_termPower ρ ht.1 ht.2, logb_prod_termPower n ts fun u hu => h u (by simp [hu])]
    ring

theorem commonDen_pos (a : Energy) : 0 < commonDen a := by
  refine Nat.mul_pos a.const.den_pos (List.prod_pos ?_)
  simp only [List.mem_map]
  rintro _ ⟨t, _, rfl⟩
  exact t.coef.den_pos

/-- The exact comparison is right, whatever the named reals are. -/
theorem exactPos_iff {a : Energy} (h : ∀ t ∈ a.terms, t.names = []) : exactPos a = true ↔ 0 < a.valWith ρ := by
  have hd : ∀ t ∈ a.terms, t.coef.den ∣ commonDen a ∧ t.names = [] := fun t ht =>
    ⟨Dvd.dvd.mul_left (List.dvd_prod (List.mem_map_of_mem ht)) _, h t ht⟩
  have hl := logb_prod_termPower ρ (commonDen a) a.terms hd
  have hp := prod_termPower_pos (commonDen a) a.terms
  have hc : (0 : ℝ) < commonDen a := by exact_mod_cast commonDen_pos a
  set x : ℚ := (10 : ℚ) ^ (a.const * commonDen a).num * (a.terms.map (termPower (commonDen a))).prod with hx
  have hx0 : 0 < x := by positivity
  have hlog : Real.logb 10 (x : ℝ) = commonDen a * a.valWith ρ := by
    rw [hx, Rat.cast_mul, Rat.cast_zpow, Rat.cast_ofNat]
    rw [Real.logb_mul (by positivity) (by exact_mod_cast hp.ne'), logb_zpow_ten,
      Real.logb_self_eq_one (by norm_num), num_mul_of_dvd (show a.const.den ∣ commonDen a from Dvd.intro _ rfl), hl,
      Energy.valWith]
    ring
  have h1 : exactPos a = true ↔ 1 < x := by simp [exactPos, hx]
  rw [h1, show (1 < x) ↔ (1 : ℝ) < (x : ℝ) by exact_mod_cast Iff.rfl,
    ← Real.logb_pos_iff (b := 10) (by norm_num) (by exact_mod_cast hx0), hlog]
  exact ⟨fun h => by nlinarith [hc] , fun h => mul_pos hc h⟩

theorem unnamed_names (a : Energy) : ∀ t ∈ (unnamed a).terms, t.names = [] := by
  intro t ht
  simpa using (List.mem_filter.mp ht).2

/-- Without the terms that have names, a real is as if every name were 0. -/
theorem valWith_unnamed (a : Energy) : (unnamed a).valWith (fun _ => 0) = a.valWith fun _ => 0 := by
  have : ∀ ts : List Term, ((ts.filter (·.names = [])).map (Term.valWith fun _ => 0)).sum
      = (ts.map (Term.valWith fun _ => 0)).sum := by
    intro ts
    induction ts with
    | nil => rfl
    | cons t ts ih =>
      cases hn : t.names with
      | nil => simp [hn, ih]
      | cons k ks => simp [hn, ih, Term.valWith]
  simp only [Energy.valWith, unnamed, this]

/-- The order of Config is an order of reals. -/
theorem realOrder_law (o : RealOrder) (pos : Energy → Bool)
    (law : ∃ ρ : Nat → ℝ, ∀ d, pos d = true ↔ 0 < d.valWith ρ) (h : o = .given pos law) (d : Energy) :
    pos d = true ↔ 0 < d.valWith o.value := by
  subst h
  exact Classical.choose_spec law d

/-- `posReal` decides positivity. -/
theorem posReal_iff (a : Energy) : posReal a = true ↔ 0 < a.val := by
  unfold posReal Energy.val
  split
  · rename_i h; simp [Energy.valWith, h]
  · split
    · rename_i h
      exact exactPos_iff _ fun t ht => unnamed_names a t (by rw [h]; exact ht)
    · split
      · rename_i h
        rw [h, exactPos_iff (fun _ => 0) (unnamed_names a), valWith_unnamed]
        rfl
      · rename_i pos law h
        exact realOrder_law _ pos law h a

/-! The values of the operations and the order, under the names' own values. -/

@[simp] theorem val_rat (q : ℚ) : (Energy.rat q).val = q := valWith_rat _ q
@[simp] theorem val_addReal (a b : Energy) : (addReal a b).val = a.val + b.val := valWith_addReal _ a b
@[simp] theorem val_subReal (a b : Energy) : (subReal a b).val = a.val - b.val := valWith_subReal _ a b
@[simp] theorem val_scaleReal (q : ℚ) (a : Energy) : (scaleReal q a).val = q * a.val := valWith_scaleReal _ q a
@[simp] theorem val_weigh (w : Weight) (a : Energy) : (weigh w a).val = w.val * a.val := valWith_weigh _ w a
@[simp] theorem val_weightReal (w : Weight) : (weightReal w).val = w.val := by simp [weightReal]
@[simp] theorem weight_val_rat (q : ℚ) : (Weight.rat q).val = q := rfl

/-- `ltReal` is the strict order. -/
@[simp] theorem ltReal_iff (a b : Energy) : ltReal a b = true ↔ a.val < b.val := by
  rw [ltReal, posReal_iff, val_subReal, sub_pos]

theorem ltReal_eq_false_iff (a b : Energy) : ltReal a b = false ↔ b.val ≤ a.val := by
  rw [← Bool.not_eq_true, ltReal_iff, not_lt]

@[simp] theorem val_maxReal (a b : Energy) : (maxReal a b).val = max a.val b.val := by
  unfold maxReal
  split
  · rename_i h; rw [max_eq_right ((ltReal_iff a b).mp h).le]
  · rename_i h; rw [max_eq_left (not_lt.mp fun hh => h ((ltReal_iff a b).mpr hh))]

end Sys2Proof.Machine
end

