-- ==== Sys2Proof/Laws/State.lean ====
section
/-! SUPPORT. One lemma per field for every named update of the state and for every draw, so that no later proof unfolds a
record update. -/

namespace Sys2Proof.Machine

variable (s : State)

@[simp] theorem raise_cfg (r : LogRecord) : (s.raise r).cfg = s.cfg := rfl
@[simp] theorem raise_hf (r : LogRecord) : (s.raise r).hf = s.hf := rfl
@[simp] theorem raise_cs (r : LogRecord) : (s.raise r).cs = s.cs := rfl
@[simp] theorem raise_af (r : LogRecord) : (s.raise r).af = s.af := rfl
@[simp] theorem raise_tx (r : LogRecord) : (s.raise r).tx = s.tx := rfl
@[simp] theorem raise_pttKeyed (r : LogRecord) : (s.raise r).pttKeyed = s.pttKeyed := rfl
@[simp] theorem raise_rxBuf (r : LogRecord) : (s.raise r).rxBuf = s.rxBuf := rfl
@[simp] theorem raise_hostOut (r : LogRecord) : (s.raise r).hostOut = s.hostOut := rfl
@[simp] theorem raise_trace (r : LogRecord) : (s.raise r).trace = s.trace := rfl
@[simp] theorem raise_log (r : LogRecord) : (s.raise r).log = s.log ++ [r] := rfl
@[simp] theorem raise_fatal (r : LogRecord) : (s.raise r).fatal = s.fatal := rfl
@[simp] theorem raise_booted (r : LogRecord) : (s.raise r).booted = s.booted := rfl
@[simp] theorem raise_replies (r : LogRecord) : (s.raise r).replies = s.replies := rfl
@[simp] theorem raise_pending (r : LogRecord) : (s.raise r).pending = s.pending := rfl
@[simp] theorem raise_env (r : LogRecord) : (s.raise r).env = s.env := rfl
@[simp] theorem raise_drawn (r : LogRecord) : (s.raise r).drawn = s.drawn := rfl

@[simp] theorem stopFatal_cfg (w : FatalCause) : (s.stopFatal w).cfg = s.cfg := rfl
@[simp] theorem stopFatal_hf (w : FatalCause) : (s.stopFatal w).hf = s.hf := rfl
@[simp] theorem stopFatal_cs (w : FatalCause) : (s.stopFatal w).cs = s.cs := rfl
@[simp] theorem stopFatal_af (w : FatalCause) : (s.stopFatal w).af = s.af := rfl
@[simp] theorem stopFatal_tx (w : FatalCause) : (s.stopFatal w).tx = s.tx := rfl
@[simp] theorem stopFatal_pttKeyed (w : FatalCause) : (s.stopFatal w).pttKeyed = s.pttKeyed := rfl
@[simp] theorem stopFatal_rxBuf (w : FatalCause) : (s.stopFatal w).rxBuf = s.rxBuf := rfl
@[simp] theorem stopFatal_hostOut (w : FatalCause) : (s.stopFatal w).hostOut = s.hostOut := rfl
@[simp] theorem stopFatal_trace (w : FatalCause) : (s.stopFatal w).trace = s.trace := rfl
@[simp] theorem stopFatal_log (w : FatalCause) : (s.stopFatal w).log = s.log ++ [.resource w] := rfl
@[simp] theorem stopFatal_fatal (w : FatalCause) : (s.stopFatal w).fatal = some w := rfl
@[simp] theorem stopFatal_booted (w : FatalCause) : (s.stopFatal w).booted = s.booted := rfl
@[simp] theorem stopFatal_replies (w : FatalCause) : (s.stopFatal w).replies = s.replies := rfl
@[simp] theorem stopFatal_pending (w : FatalCause) : (s.stopFatal w).pending = s.pending := rfl
@[simp] theorem stopFatal_env (w : FatalCause) : (s.stopFatal w).env = s.env := rfl
@[simp] theorem stopFatal_drawn (w : FatalCause) : (s.stopFatal w).drawn = s.drawn := rfl

@[simp] theorem act_cfg (a : Action) : (s.act a).cfg = s.cfg := rfl
@[simp] theorem act_hf (a : Action) : (s.act a).hf = s.hf := rfl
@[simp] theorem act_cs (a : Action) : (s.act a).cs = s.cs := rfl
@[simp] theorem act_af (a : Action) : (s.act a).af = s.af := rfl
@[simp] theorem act_tx (a : Action) : (s.act a).tx = s.tx := rfl
@[simp] theorem act_pttKeyed (a : Action) : (s.act a).pttKeyed = s.pttKeyed := rfl
@[simp] theorem act_rxBuf (a : Action) : (s.act a).rxBuf = s.rxBuf := rfl
@[simp] theorem act_hostOut (a : Action) : (s.act a).hostOut = s.hostOut := rfl
@[simp] theorem act_trace (a : Action) : (s.act a).trace = s.trace ++ [a] := rfl
@[simp] theorem act_log (a : Action) : (s.act a).log = s.log := rfl
@[simp] theorem act_fatal (a : Action) : (s.act a).fatal = s.fatal := rfl
@[simp] theorem act_booted (a : Action) : (s.act a).booted = s.booted := rfl
@[simp] theorem act_replies (a : Action) : (s.act a).replies = s.replies := rfl
@[simp] theorem act_pending (a : Action) : (s.act a).pending = s.pending := rfl
@[simp] theorem act_env (a : Action) : (s.act a).env = s.env := rfl
@[simp] theorem act_drawn (a : Action) : (s.act a).drawn = s.drawn := rfl

@[simp] theorem pttSet_cfg (v : Bool) : (s.pttSet v).cfg = s.cfg := rfl
@[simp] theorem pttSet_hf (v : Bool) : (s.pttSet v).hf = s.hf := rfl
@[simp] theorem pttSet_cs (v : Bool) : (s.pttSet v).cs = s.cs := rfl
@[simp] theorem pttSet_af (v : Bool) : (s.pttSet v).af = s.af := rfl
@[simp] theorem pttSet_tx (v : Bool) : (s.pttSet v).tx = s.tx := rfl
@[simp] theorem pttSet_pttKeyed (v : Bool) : (s.pttSet v).pttKeyed = v := rfl
@[simp] theorem pttSet_rxBuf (v : Bool) : (s.pttSet v).rxBuf = s.rxBuf := rfl
@[simp] theorem pttSet_hostOut (v : Bool) : (s.pttSet v).hostOut = s.hostOut := rfl
@[simp] theorem pttSet_trace (v : Bool) : (s.pttSet v).trace = s.trace ++ [.ptt v] := rfl
@[simp] theorem pttSet_log (v : Bool) : (s.pttSet v).log = s.log := rfl
@[simp] theorem pttSet_fatal (v : Bool) : (s.pttSet v).fatal = s.fatal := rfl
@[simp] theorem pttSet_booted (v : Bool) : (s.pttSet v).booted = s.booted := rfl
@[simp] theorem pttSet_replies (v : Bool) : (s.pttSet v).replies = s.replies := rfl
@[simp] theorem pttSet_pending (v : Bool) : (s.pttSet v).pending = s.pending := rfl
@[simp] theorem pttSet_env (v : Bool) : (s.pttSet v).env = s.env := rfl
@[simp] theorem pttSet_drawn (v : Bool) : (s.pttSet v).drawn = s.drawn := rfl

@[simp] theorem hostEmit_cfg (bytes : List Byte) : (s.hostEmit bytes).cfg = s.cfg := rfl
@[simp] theorem hostEmit_hf (bytes : List Byte) : (s.hostEmit bytes).hf = s.hf := rfl
@[simp] theorem hostEmit_cs (bytes : List Byte) : (s.hostEmit bytes).cs = s.cs := rfl
@[simp] theorem hostEmit_af (bytes : List Byte) : (s.hostEmit bytes).af = s.af := rfl
@[simp] theorem hostEmit_tx (bytes : List Byte) : (s.hostEmit bytes).tx = s.tx := rfl
@[simp] theorem hostEmit_pttKeyed (bytes : List Byte) : (s.hostEmit bytes).pttKeyed = s.pttKeyed := rfl
@[simp] theorem hostEmit_rxBuf (bytes : List Byte) : (s.hostEmit bytes).rxBuf = s.rxBuf := rfl
@[simp] theorem hostEmit_hostOut (bytes : List Byte) : (s.hostEmit bytes).hostOut = s.hostOut ++ bytes := rfl
@[simp] theorem hostEmit_trace (bytes : List Byte) : (s.hostEmit bytes).trace = s.trace := rfl
@[simp] theorem hostEmit_log (bytes : List Byte) : (s.hostEmit bytes).log = s.log := rfl
@[simp] theorem hostEmit_fatal (bytes : List Byte) : (s.hostEmit bytes).fatal = s.fatal := rfl
@[simp] theorem hostEmit_booted (bytes : List Byte) : (s.hostEmit bytes).booted = s.booted := rfl
@[simp] theorem hostEmit_replies (bytes : List Byte) : (s.hostEmit bytes).replies = s.replies := rfl
@[simp] theorem hostEmit_pending (bytes : List Byte) : (s.hostEmit bytes).pending = s.pending := rfl
@[simp] theorem hostEmit_env (bytes : List Byte) : (s.hostEmit bytes).env = s.env := rfl
@[simp] theorem hostEmit_drawn (bytes : List Byte) : (s.hostEmit bytes).drawn = s.drawn := rfl

@[simp] theorem reply_cfg (r : Reply) : (s.reply r).cfg = s.cfg := rfl
@[simp] theorem reply_hf (r : Reply) : (s.reply r).hf = s.hf := rfl
@[simp] theorem reply_cs (r : Reply) : (s.reply r).cs = s.cs := rfl
@[simp] theorem reply_af (r : Reply) : (s.reply r).af = s.af := rfl
@[simp] theorem reply_tx (r : Reply) : (s.reply r).tx = s.tx := rfl
@[simp] theorem reply_pttKeyed (r : Reply) : (s.reply r).pttKeyed = s.pttKeyed := rfl
@[simp] theorem reply_rxBuf (r : Reply) : (s.reply r).rxBuf = s.rxBuf := rfl
@[simp] theorem reply_hostOut (r : Reply) : (s.reply r).hostOut = s.hostOut := rfl
@[simp] theorem reply_trace (r : Reply) : (s.reply r).trace = s.trace := rfl
@[simp] theorem reply_log (r : Reply) : (s.reply r).log = s.log := rfl
@[simp] theorem reply_fatal (r : Reply) : (s.reply r).fatal = s.fatal := rfl
@[simp] theorem reply_booted (r : Reply) : (s.reply r).booted = s.booted := rfl
@[simp] theorem reply_replies (r : Reply) : (s.reply r).replies = s.replies ++ [r] := rfl
@[simp] theorem reply_pending (r : Reply) : (s.reply r).pending = s.pending := rfl
@[simp] theorem reply_env (r : Reply) : (s.reply r).env = s.env := rfl
@[simp] theorem reply_drawn (r : Reply) : (s.reply r).drawn = s.drawn := rfl

@[simp] theorem openFrame_cfg : (openFrame s).cfg = s.cfg := rfl
@[simp] theorem openFrame_hf : (openFrame s).hf = { inFrame := true, escape := false, buf := [] } := rfl
@[simp] theorem openFrame_cs : (openFrame s).cs = s.cs := rfl
@[simp] theorem openFrame_af : (openFrame s).af = s.af := rfl
@[simp] theorem openFrame_tx : (openFrame s).tx = s.tx := rfl
@[simp] theorem openFrame_pttKeyed : (openFrame s).pttKeyed = s.pttKeyed := rfl
@[simp] theorem openFrame_rxBuf : (openFrame s).rxBuf = s.rxBuf := rfl
@[simp] theorem openFrame_hostOut : (openFrame s).hostOut = s.hostOut := rfl
@[simp] theorem openFrame_trace : (openFrame s).trace = s.trace := rfl
@[simp] theorem openFrame_log : (openFrame s).log = s.log := rfl
@[simp] theorem openFrame_fatal : (openFrame s).fatal = s.fatal := rfl
@[simp] theorem openFrame_booted : (openFrame s).booted = s.booted := rfl
@[simp] theorem openFrame_replies : (openFrame s).replies = s.replies := rfl
@[simp] theorem openFrame_pending : (openFrame s).pending = s.pending := rfl
@[simp] theorem openFrame_env : (openFrame s).env = s.env := rfl
@[simp] theorem openFrame_drawn : (openFrame s).drawn = s.drawn := rfl

@[simp] theorem setEscape_cfg : (setEscape s).cfg = s.cfg := rfl
@[simp] theorem setEscape_hf : (setEscape s).hf = { s.hf with escape := true } := rfl
@[simp] theorem setEscape_cs : (setEscape s).cs = s.cs := rfl
@[simp] theorem setEscape_af : (setEscape s).af = s.af := rfl
@[simp] theorem setEscape_tx : (setEscape s).tx = s.tx := rfl
@[simp] theorem setEscape_pttKeyed : (setEscape s).pttKeyed = s.pttKeyed := rfl
@[simp] theorem setEscape_rxBuf : (setEscape s).rxBuf = s.rxBuf := rfl
@[simp] theorem setEscape_hostOut : (setEscape s).hostOut = s.hostOut := rfl
@[simp] theorem setEscape_trace : (setEscape s).trace = s.trace := rfl
@[simp] theorem setEscape_log : (setEscape s).log = s.log := rfl
@[simp] theorem setEscape_fatal : (setEscape s).fatal = s.fatal := rfl
@[simp] theorem setEscape_booted : (setEscape s).booted = s.booted := rfl
@[simp] theorem setEscape_replies : (setEscape s).replies = s.replies := rfl
@[simp] theorem setEscape_pending : (setEscape s).pending = s.pending := rfl
@[simp] theorem setEscape_env : (setEscape s).env = s.env := rfl
@[simp] theorem setEscape_drawn : (setEscape s).drawn = s.drawn := rfl

@[simp] theorem afReset_cfg : (afReset s).cfg = s.cfg := rfl
@[simp] theorem afReset_hf : (afReset s).hf = s.hf := rfl
@[simp] theorem afReset_cs : (afReset s).cs = s.cs := rfl
@[simp] theorem afReset_af : (afReset s).af = Reassembly.reset := rfl
@[simp] theorem afReset_tx : (afReset s).tx = s.tx := rfl
@[simp] theorem afReset_pttKeyed : (afReset s).pttKeyed = s.pttKeyed := rfl
@[simp] theorem afReset_rxBuf : (afReset s).rxBuf = s.rxBuf := rfl
@[simp] theorem afReset_hostOut : (afReset s).hostOut = s.hostOut := rfl
@[simp] theorem afReset_trace : (afReset s).trace = s.trace := rfl
@[simp] theorem afReset_log : (afReset s).log = s.log := rfl
@[simp] theorem afReset_fatal : (afReset s).fatal = s.fatal := rfl
@[simp] theorem afReset_booted : (afReset s).booted = s.booted := rfl
@[simp] theorem afReset_replies : (afReset s).replies = s.replies := rfl
@[simp] theorem afReset_pending : (afReset s).pending = s.pending := rfl
@[simp] theorem afReset_env : (afReset s).env = s.env := rfl
@[simp] theorem afReset_drawn : (afReset s).drawn = s.drawn := rfl

@[simp] theorem fragLoss_cfg (k : AirKind) (n : Nat) : (fragLoss k n s).cfg = s.cfg := rfl
@[simp] theorem fragLoss_hf (k : AirKind) (n : Nat) : (fragLoss k n s).hf = s.hf := rfl
@[simp] theorem fragLoss_cs (k : AirKind) (n : Nat) : (fragLoss k n s).cs = s.cs := rfl
@[simp] theorem fragLoss_af (k : AirKind) (n : Nat) : (fragLoss k n s).af = Reassembly.reset := rfl
@[simp] theorem fragLoss_tx (k : AirKind) (n : Nat) : (fragLoss k n s).tx = s.tx := rfl
@[simp] theorem fragLoss_pttKeyed (k : AirKind) (n : Nat) : (fragLoss k n s).pttKeyed = s.pttKeyed := rfl
@[simp] theorem fragLoss_rxBuf (k : AirKind) (n : Nat) : (fragLoss k n s).rxBuf = s.rxBuf := rfl
@[simp] theorem fragLoss_hostOut (k : AirKind) (n : Nat) : (fragLoss k n s).hostOut = s.hostOut := rfl
@[simp] theorem fragLoss_trace (k : AirKind) (n : Nat) : (fragLoss k n s).trace = s.trace := rfl
@[simp] theorem fragLoss_log (k : AirKind) (n : Nat) : (fragLoss k n s).log = s.log ++ [.fragLoss k n s.af.lastTag s.af.lastId.toNat] := rfl
@[simp] theorem fragLoss_fatal (k : AirKind) (n : Nat) : (fragLoss k n s).fatal = s.fatal := rfl
@[simp] theorem fragLoss_booted (k : AirKind) (n : Nat) : (fragLoss k n s).booted = s.booted := rfl
@[simp] theorem fragLoss_replies (k : AirKind) (n : Nat) : (fragLoss k n s).replies = s.replies := rfl
@[simp] theorem fragLoss_pending (k : AirKind) (n : Nat) : (fragLoss k n s).pending = s.pending := rfl
@[simp] theorem fragLoss_env (k : AirKind) (n : Nat) : (fragLoss k n s).env = s.env := rfl
@[simp] theorem fragLoss_drawn (k : AirKind) (n : Nat) : (fragLoss k n s).drawn = s.drawn := rfl

@[simp] theorem setPhase_cfg (p : Phase) : (s.setPhase p).cfg = s.cfg := rfl
@[simp] theorem setPhase_hf (p : Phase) : (s.setPhase p).hf = s.hf := rfl
@[simp] theorem setPhase_cs (p : Phase) : (s.setPhase p).cs = s.cs := rfl
@[simp] theorem setPhase_af (p : Phase) : (s.setPhase p).af = s.af := rfl
@[simp] theorem setPhase_tx (p : Phase) : (s.setPhase p).tx = { s.tx with phase := p } := rfl
@[simp] theorem setPhase_pttKeyed (p : Phase) : (s.setPhase p).pttKeyed = s.pttKeyed := rfl
@[simp] theorem setPhase_rxBuf (p : Phase) : (s.setPhase p).rxBuf = s.rxBuf := rfl
@[simp] theorem setPhase_hostOut (p : Phase) : (s.setPhase p).hostOut = s.hostOut := rfl
@[simp] theorem setPhase_trace (p : Phase) : (s.setPhase p).trace = s.trace := rfl
@[simp] theorem setPhase_log (p : Phase) : (s.setPhase p).log = s.log := rfl
@[simp] theorem setPhase_fatal (p : Phase) : (s.setPhase p).fatal = s.fatal := rfl
@[simp] theorem setPhase_booted (p : Phase) : (s.setPhase p).booted = s.booted := rfl
@[simp] theorem setPhase_replies (p : Phase) : (s.setPhase p).replies = s.replies := rfl
@[simp] theorem setPhase_pending (p : Phase) : (s.setPhase p).pending = s.pending := rfl
@[simp] theorem setPhase_env (p : Phase) : (s.setPhase p).env = s.env := rfl
@[simp] theorem setPhase_drawn (p : Phase) : (s.setPhase p).drawn = s.drawn := rfl

@[simp] theorem clearPacket_cfg (p : Phase) : (s.clearPacket p).cfg = s.cfg := rfl
@[simp] theorem clearPacket_hf (p : Phase) : (s.clearPacket p).hf = s.hf := rfl
@[simp] theorem clearPacket_cs (p : Phase) : (s.clearPacket p).cs = s.cs := rfl
@[simp] theorem clearPacket_af (p : Phase) : (s.clearPacket p).af = s.af := rfl
@[simp] theorem clearPacket_tx (p : Phase) : (s.clearPacket p).tx = { s.tx with phase := p, frames := [], index := 0, polls := 0 } := rfl
@[simp] theorem clearPacket_pttKeyed (p : Phase) : (s.clearPacket p).pttKeyed = s.pttKeyed := rfl
@[simp] theorem clearPacket_rxBuf (p : Phase) : (s.clearPacket p).rxBuf = s.rxBuf := rfl
@[simp] theorem clearPacket_hostOut (p : Phase) : (s.clearPacket p).hostOut = s.hostOut := rfl
@[simp] theorem clearPacket_trace (p : Phase) : (s.clearPacket p).trace = s.trace := rfl
@[simp] theorem clearPacket_log (p : Phase) : (s.clearPacket p).log = s.log := rfl
@[simp] theorem clearPacket_fatal (p : Phase) : (s.clearPacket p).fatal = s.fatal := rfl
@[simp] theorem clearPacket_booted (p : Phase) : (s.clearPacket p).booted = s.booted := rfl
@[simp] theorem clearPacket_replies (p : Phase) : (s.clearPacket p).replies = s.replies := rfl
@[simp] theorem clearPacket_pending (p : Phase) : (s.clearPacket p).pending = s.pending := rfl
@[simp] theorem clearPacket_env (p : Phase) : (s.clearPacket p).env = s.env := rfl
@[simp] theorem clearPacket_drawn (p : Phase) : (s.clearPacket p).drawn = s.drawn := rfl

@[simp] theorem clearQueue_cfg : s.clearQueue.cfg = s.cfg := rfl
@[simp] theorem clearQueue_hf : s.clearQueue.hf = s.hf := rfl
@[simp] theorem clearQueue_cs : s.clearQueue.cs = s.cs := rfl
@[simp] theorem clearQueue_af : s.clearQueue.af = s.af := rfl
@[simp] theorem clearQueue_tx : s.clearQueue.tx = { s.tx with queue := [] } := rfl
@[simp] theorem clearQueue_pttKeyed : s.clearQueue.pttKeyed = s.pttKeyed := rfl
@[simp] theorem clearQueue_rxBuf : s.clearQueue.rxBuf = s.rxBuf := rfl
@[simp] theorem clearQueue_hostOut : s.clearQueue.hostOut = s.hostOut := rfl
@[simp] theorem clearQueue_trace : s.clearQueue.trace = s.trace := rfl
@[simp] theorem clearQueue_log : s.clearQueue.log = s.log := rfl
@[simp] theorem clearQueue_fatal : s.clearQueue.fatal = s.fatal := rfl
@[simp] theorem clearQueue_booted : s.clearQueue.booted = s.booted := rfl
@[simp] theorem clearQueue_replies : s.clearQueue.replies = s.replies := rfl
@[simp] theorem clearQueue_pending : s.clearQueue.pending = s.pending := rfl
@[simp] theorem clearQueue_env : s.clearQueue.env = s.env := rfl
@[simp] theorem clearQueue_drawn : s.clearQueue.drawn = s.drawn := rfl

@[simp] theorem audioFailed_cfg : (audioFailed s).cfg = s.cfg := rfl
@[simp] theorem audioFailed_hf : (audioFailed s).hf = s.hf := rfl
@[simp] theorem audioFailed_cs : (audioFailed s).cs = s.cs := rfl
@[simp] theorem audioFailed_af : (audioFailed s).af = s.af := rfl
@[simp] theorem audioFailed_tx : (audioFailed s).tx = { s.tx with phase := .keyDown } := rfl
@[simp] theorem audioFailed_pttKeyed : (audioFailed s).pttKeyed = s.pttKeyed := rfl
@[simp] theorem audioFailed_rxBuf : (audioFailed s).rxBuf = s.rxBuf := rfl
@[simp] theorem audioFailed_hostOut : (audioFailed s).hostOut = s.hostOut := rfl
@[simp] theorem audioFailed_trace : (audioFailed s).trace = s.trace := rfl
@[simp] theorem audioFailed_log : (audioFailed s).log = s.log ++ [.txAudioFail s.tx.phase s.tx.index] := rfl
@[simp] theorem audioFailed_fatal : (audioFailed s).fatal = s.fatal := rfl
@[simp] theorem audioFailed_booted : (audioFailed s).booted = s.booted := rfl
@[simp] theorem audioFailed_replies : (audioFailed s).replies = s.replies := rfl
@[simp] theorem audioFailed_pending : (audioFailed s).pending = s.pending := rfl
@[simp] theorem audioFailed_env : (audioFailed s).env = s.env := rfl
@[simp] theorem audioFailed_drawn : (audioFailed s).drawn = s.drawn := rfl

@[simp] theorem drawModemOpen_cfg : (drawModemOpen s).2.cfg = s.cfg := rfl
@[simp] theorem drawModemOpen_hf : (drawModemOpen s).2.hf = s.hf := rfl
@[simp] theorem drawModemOpen_cs : (drawModemOpen s).2.cs = s.cs := rfl
@[simp] theorem drawModemOpen_af : (drawModemOpen s).2.af = s.af := rfl
@[simp] theorem drawModemOpen_tx : (drawModemOpen s).2.tx = s.tx := rfl
@[simp] theorem drawModemOpen_pttKeyed : (drawModemOpen s).2.pttKeyed = s.pttKeyed := rfl
@[simp] theorem drawModemOpen_rxBuf : (drawModemOpen s).2.rxBuf = s.rxBuf := rfl
@[simp] theorem drawModemOpen_hostOut : (drawModemOpen s).2.hostOut = s.hostOut := rfl
@[simp] theorem drawModemOpen_trace : (drawModemOpen s).2.trace = s.trace := rfl
@[simp] theorem drawModemOpen_log : (drawModemOpen s).2.log = s.log := rfl
@[simp] theorem drawModemOpen_fatal : (drawModemOpen s).2.fatal = s.fatal := rfl
@[simp] theorem drawModemOpen_booted : (drawModemOpen s).2.booted = s.booted := rfl
@[simp] theorem drawModemOpen_replies : (drawModemOpen s).2.replies = s.replies := rfl
@[simp] theorem drawModemOpen_pending : (drawModemOpen s).2.pending = s.pending := rfl

@[simp] theorem drawBitsPerFrame_cfg : (drawBitsPerFrame s).2.cfg = s.cfg := rfl
@[simp] theorem drawBitsPerFrame_hf : (drawBitsPerFrame s).2.hf = s.hf := rfl
@[simp] theorem drawBitsPerFrame_cs : (drawBitsPerFrame s).2.cs = s.cs := rfl
@[simp] theorem drawBitsPerFrame_af : (drawBitsPerFrame s).2.af = s.af := rfl
@[simp] theorem drawBitsPerFrame_tx : (drawBitsPerFrame s).2.tx = s.tx := rfl
@[simp] theorem drawBitsPerFrame_pttKeyed : (drawBitsPerFrame s).2.pttKeyed = s.pttKeyed := rfl
@[simp] theorem drawBitsPerFrame_rxBuf : (drawBitsPerFrame s).2.rxBuf = s.rxBuf := rfl
@[simp] theorem drawBitsPerFrame_hostOut : (drawBitsPerFrame s).2.hostOut = s.hostOut := rfl
@[simp] theorem drawBitsPerFrame_trace : (drawBitsPerFrame s).2.trace = s.trace := rfl
@[simp] theorem drawBitsPerFrame_log : (drawBitsPerFrame s).2.log = s.log := rfl
@[simp] theorem drawBitsPerFrame_fatal : (drawBitsPerFrame s).2.fatal = s.fatal := rfl
@[simp] theorem drawBitsPerFrame_booted : (drawBitsPerFrame s).2.booted = s.booted := rfl
@[simp] theorem drawBitsPerFrame_replies : (drawBitsPerFrame s).2.replies = s.replies := rfl
@[simp] theorem drawBitsPerFrame_pending : (drawBitsPerFrame s).2.pending = s.pending := rfl

@[simp] theorem drawMaxTx_cfg : (drawMaxTx s).2.cfg = s.cfg := rfl
@[simp] theorem drawMaxTx_hf : (drawMaxTx s).2.hf = s.hf := rfl
@[simp] theorem drawMaxTx_cs : (drawMaxTx s).2.cs = s.cs := rfl
@[simp] theorem drawMaxTx_af : (drawMaxTx s).2.af = s.af := rfl
@[simp] theorem drawMaxTx_tx : (drawMaxTx s).2.tx = s.tx := rfl
@[simp] theorem drawMaxTx_pttKeyed : (drawMaxTx s).2.pttKeyed = s.pttKeyed := rfl
@[simp] theorem drawMaxTx_rxBuf : (drawMaxTx s).2.rxBuf = s.rxBuf := rfl
@[simp] theorem drawMaxTx_hostOut : (drawMaxTx s).2.hostOut = s.hostOut := rfl
@[simp] theorem drawMaxTx_trace : (drawMaxTx s).2.trace = s.trace := rfl
@[simp] theorem drawMaxTx_log : (drawMaxTx s).2.log = s.log := rfl
@[simp] theorem drawMaxTx_fatal : (drawMaxTx s).2.fatal = s.fatal := rfl
@[simp] theorem drawMaxTx_booted : (drawMaxTx s).2.booted = s.booted := rfl
@[simp] theorem drawMaxTx_replies : (drawMaxTx s).2.replies = s.replies := rfl
@[simp] theorem drawMaxTx_pending : (drawMaxTx s).2.pending = s.pending := rfl

@[simp] theorem drawMaxRx_cfg : (drawMaxRx s).2.cfg = s.cfg := rfl
@[simp] theorem drawMaxRx_hf : (drawMaxRx s).2.hf = s.hf := rfl
@[simp] theorem drawMaxRx_cs : (drawMaxRx s).2.cs = s.cs := rfl
@[simp] theorem drawMaxRx_af : (drawMaxRx s).2.af = s.af := rfl
@[simp] theorem drawMaxRx_tx : (drawMaxRx s).2.tx = s.tx := rfl
@[simp] theorem drawMaxRx_pttKeyed : (drawMaxRx s).2.pttKeyed = s.pttKeyed := rfl
@[simp] theorem drawMaxRx_rxBuf : (drawMaxRx s).2.rxBuf = s.rxBuf := rfl
@[simp] theorem drawMaxRx_hostOut : (drawMaxRx s).2.hostOut = s.hostOut := rfl
@[simp] theorem drawMaxRx_trace : (drawMaxRx s).2.trace = s.trace := rfl
@[simp] theorem drawMaxRx_log : (drawMaxRx s).2.log = s.log := rfl
@[simp] theorem drawMaxRx_fatal : (drawMaxRx s).2.fatal = s.fatal := rfl
@[simp] theorem drawMaxRx_booted : (drawMaxRx s).2.booted = s.booted := rfl
@[simp] theorem drawMaxRx_replies : (drawMaxRx s).2.replies = s.replies := rfl
@[simp] theorem drawMaxRx_pending : (drawMaxRx s).2.pending = s.pending := rfl

@[simp] theorem drawPttAcquire_cfg : (drawPttAcquire s).2.cfg = s.cfg := rfl
@[simp] theorem drawPttAcquire_hf : (drawPttAcquire s).2.hf = s.hf := rfl
@[simp] theorem drawPttAcquire_cs : (drawPttAcquire s).2.cs = s.cs := rfl
@[simp] theorem drawPttAcquire_af : (drawPttAcquire s).2.af = s.af := rfl
@[simp] theorem drawPttAcquire_tx : (drawPttAcquire s).2.tx = s.tx := rfl
@[simp] theorem drawPttAcquire_pttKeyed : (drawPttAcquire s).2.pttKeyed = s.pttKeyed := rfl
@[simp] theorem drawPttAcquire_rxBuf : (drawPttAcquire s).2.rxBuf = s.rxBuf := rfl
@[simp] theorem drawPttAcquire_hostOut : (drawPttAcquire s).2.hostOut = s.hostOut := rfl
@[simp] theorem drawPttAcquire_trace : (drawPttAcquire s).2.trace = s.trace := rfl
@[simp] theorem drawPttAcquire_log : (drawPttAcquire s).2.log = s.log := rfl
@[simp] theorem drawPttAcquire_fatal : (drawPttAcquire s).2.fatal = s.fatal := rfl
@[simp] theorem drawPttAcquire_booted : (drawPttAcquire s).2.booted = s.booted := rfl
@[simp] theorem drawPttAcquire_replies : (drawPttAcquire s).2.replies = s.replies := rfl
@[simp] theorem drawPttAcquire_pending : (drawPttAcquire s).2.pending = s.pending := rfl

@[simp] theorem drawAudioOut_cfg : (drawAudioOut s).2.cfg = s.cfg := rfl
@[simp] theorem drawAudioOut_hf : (drawAudioOut s).2.hf = s.hf := rfl
@[simp] theorem drawAudioOut_cs : (drawAudioOut s).2.cs = s.cs := rfl
@[simp] theorem drawAudioOut_af : (drawAudioOut s).2.af = s.af := rfl
@[simp] theorem drawAudioOut_tx : (drawAudioOut s).2.tx = s.tx := rfl
@[simp] theorem drawAudioOut_pttKeyed : (drawAudioOut s).2.pttKeyed = s.pttKeyed := rfl
@[simp] theorem drawAudioOut_rxBuf : (drawAudioOut s).2.rxBuf = s.rxBuf := rfl
@[simp] theorem drawAudioOut_hostOut : (drawAudioOut s).2.hostOut = s.hostOut := rfl
@[simp] theorem drawAudioOut_trace : (drawAudioOut s).2.trace = s.trace := rfl
@[simp] theorem drawAudioOut_log : (drawAudioOut s).2.log = s.log := rfl
@[simp] theorem drawAudioOut_fatal : (drawAudioOut s).2.fatal = s.fatal := rfl
@[simp] theorem drawAudioOut_booted : (drawAudioOut s).2.booted = s.booted := rfl
@[simp] theorem drawAudioOut_replies : (drawAudioOut s).2.replies = s.replies := rfl
@[simp] theorem drawAudioOut_pending : (drawAudioOut s).2.pending = s.pending := rfl

@[simp] theorem drawAudioIn_cfg : (drawAudioIn s).2.cfg = s.cfg := rfl
@[simp] theorem drawAudioIn_hf : (drawAudioIn s).2.hf = s.hf := rfl
@[simp] theorem drawAudioIn_cs : (drawAudioIn s).2.cs = s.cs := rfl
@[simp] theorem drawAudioIn_af : (drawAudioIn s).2.af = s.af := rfl
@[simp] theorem drawAudioIn_tx : (drawAudioIn s).2.tx = s.tx := rfl
@[simp] theorem drawAudioIn_pttKeyed : (drawAudioIn s).2.pttKeyed = s.pttKeyed := rfl
@[simp] theorem drawAudioIn_rxBuf : (drawAudioIn s).2.rxBuf = s.rxBuf := rfl
@[simp] theorem drawAudioIn_hostOut : (drawAudioIn s).2.hostOut = s.hostOut := rfl
@[simp] theorem drawAudioIn_trace : (drawAudioIn s).2.trace = s.trace := rfl
@[simp] theorem drawAudioIn_log : (drawAudioIn s).2.log = s.log := rfl
@[simp] theorem drawAudioIn_fatal : (drawAudioIn s).2.fatal = s.fatal := rfl
@[simp] theorem drawAudioIn_booted : (drawAudioIn s).2.booted = s.booted := rfl
@[simp] theorem drawAudioIn_replies : (drawAudioIn s).2.replies = s.replies := rfl
@[simp] theorem drawAudioIn_pending : (drawAudioIn s).2.pending = s.pending := rfl

@[simp] theorem drawNin_cfg : (drawNin s).2.cfg = s.cfg := rfl
@[simp] theorem drawNin_hf : (drawNin s).2.hf = s.hf := rfl
@[simp] theorem drawNin_cs : (drawNin s).2.cs = s.cs := rfl
@[simp] theorem drawNin_af : (drawNin s).2.af = s.af := rfl
@[simp] theorem drawNin_tx : (drawNin s).2.tx = s.tx := rfl
@[simp] theorem drawNin_pttKeyed : (drawNin s).2.pttKeyed = s.pttKeyed := rfl
@[simp] theorem drawNin_rxBuf : (drawNin s).2.rxBuf = s.rxBuf := rfl
@[simp] theorem drawNin_hostOut : (drawNin s).2.hostOut = s.hostOut := rfl
@[simp] theorem drawNin_trace : (drawNin s).2.trace = s.trace := rfl
@[simp] theorem drawNin_log : (drawNin s).2.log = s.log := rfl
@[simp] theorem drawNin_fatal : (drawNin s).2.fatal = s.fatal := rfl
@[simp] theorem drawNin_booted : (drawNin s).2.booted = s.booted := rfl
@[simp] theorem drawNin_replies : (drawNin s).2.replies = s.replies := rfl
@[simp] theorem drawNin_pending : (drawNin s).2.pending = s.pending := rfl

@[simp] theorem drawPre_cfg : (drawPre s).2.cfg = s.cfg := rfl
@[simp] theorem drawPre_hf : (drawPre s).2.hf = s.hf := rfl
@[simp] theorem drawPre_cs : (drawPre s).2.cs = s.cs := rfl
@[simp] theorem drawPre_af : (drawPre s).2.af = s.af := rfl
@[simp] theorem drawPre_tx : (drawPre s).2.tx = s.tx := rfl
@[simp] theorem drawPre_pttKeyed : (drawPre s).2.pttKeyed = s.pttKeyed := rfl
@[simp] theorem drawPre_rxBuf : (drawPre s).2.rxBuf = s.rxBuf := rfl
@[simp] theorem drawPre_hostOut : (drawPre s).2.hostOut = s.hostOut := rfl
@[simp] theorem drawPre_trace : (drawPre s).2.trace = s.trace := rfl
@[simp] theorem drawPre_log : (drawPre s).2.log = s.log := rfl
@[simp] theorem drawPre_fatal : (drawPre s).2.fatal = s.fatal := rfl
@[simp] theorem drawPre_booted : (drawPre s).2.booted = s.booted := rfl
@[simp] theorem drawPre_replies : (drawPre s).2.replies = s.replies := rfl
@[simp] theorem drawPre_pending : (drawPre s).2.pending = s.pending := rfl

@[simp] theorem drawPost_cfg : (drawPost s).2.cfg = s.cfg := rfl
@[simp] theorem drawPost_hf : (drawPost s).2.hf = s.hf := rfl
@[simp] theorem drawPost_cs : (drawPost s).2.cs = s.cs := rfl
@[simp] theorem drawPost_af : (drawPost s).2.af = s.af := rfl
@[simp] theorem drawPost_tx : (drawPost s).2.tx = s.tx := rfl
@[simp] theorem drawPost_pttKeyed : (drawPost s).2.pttKeyed = s.pttKeyed := rfl
@[simp] theorem drawPost_rxBuf : (drawPost s).2.rxBuf = s.rxBuf := rfl
@[simp] theorem drawPost_hostOut : (drawPost s).2.hostOut = s.hostOut := rfl
@[simp] theorem drawPost_trace : (drawPost s).2.trace = s.trace := rfl
@[simp] theorem drawPost_log : (drawPost s).2.log = s.log := rfl
@[simp] theorem drawPost_fatal : (drawPost s).2.fatal = s.fatal := rfl
@[simp] theorem drawPost_booted : (drawPost s).2.booted = s.booted := rfl
@[simp] theorem drawPost_replies : (drawPost s).2.replies = s.replies := rfl
@[simp] theorem drawPost_pending : (drawPost s).2.pending = s.pending := rfl

@[simp] theorem drawWrite_cfg : (drawWrite s).2.cfg = s.cfg := rfl
@[simp] theorem drawWrite_hf : (drawWrite s).2.hf = s.hf := rfl
@[simp] theorem drawWrite_cs : (drawWrite s).2.cs = s.cs := rfl
@[simp] theorem drawWrite_af : (drawWrite s).2.af = s.af := rfl
@[simp] theorem drawWrite_tx : (drawWrite s).2.tx = s.tx := rfl
@[simp] theorem drawWrite_pttKeyed : (drawWrite s).2.pttKeyed = s.pttKeyed := rfl
@[simp] theorem drawWrite_rxBuf : (drawWrite s).2.rxBuf = s.rxBuf := rfl
@[simp] theorem drawWrite_hostOut : (drawWrite s).2.hostOut = s.hostOut := rfl
@[simp] theorem drawWrite_trace : (drawWrite s).2.trace = s.trace := rfl
@[simp] theorem drawWrite_log : (drawWrite s).2.log = s.log := rfl
@[simp] theorem drawWrite_fatal : (drawWrite s).2.fatal = s.fatal := rfl
@[simp] theorem drawWrite_booted : (drawWrite s).2.booted = s.booted := rfl
@[simp] theorem drawWrite_replies : (drawWrite s).2.replies = s.replies := rfl
@[simp] theorem drawWrite_pending : (drawWrite s).2.pending = s.pending := rfl

@[simp] theorem drawDrained_cfg : (drawDrained s).2.cfg = s.cfg := rfl
@[simp] theorem drawDrained_hf : (drawDrained s).2.hf = s.hf := rfl
@[simp] theorem drawDrained_cs : (drawDrained s).2.cs = s.cs := rfl
@[simp] theorem drawDrained_af : (drawDrained s).2.af = s.af := rfl
@[simp] theorem drawDrained_tx : (drawDrained s).2.tx = s.tx := rfl
@[simp] theorem drawDrained_pttKeyed : (drawDrained s).2.pttKeyed = s.pttKeyed := rfl
@[simp] theorem drawDrained_rxBuf : (drawDrained s).2.rxBuf = s.rxBuf := rfl
@[simp] theorem drawDrained_hostOut : (drawDrained s).2.hostOut = s.hostOut := rfl
@[simp] theorem drawDrained_trace : (drawDrained s).2.trace = s.trace := rfl
@[simp] theorem drawDrained_log : (drawDrained s).2.log = s.log := rfl
@[simp] theorem drawDrained_fatal : (drawDrained s).2.fatal = s.fatal := rfl
@[simp] theorem drawDrained_booted : (drawDrained s).2.booted = s.booted := rfl
@[simp] theorem drawDrained_replies : (drawDrained s).2.replies = s.replies := rfl
@[simp] theorem drawDrained_pending : (drawDrained s).2.pending = s.pending := rfl

@[simp] theorem drawDemod_cfg (chunk : List Sample) : (drawDemod chunk s).2.cfg = s.cfg := rfl
@[simp] theorem drawDemod_hf (chunk : List Sample) : (drawDemod chunk s).2.hf = s.hf := rfl
@[simp] theorem drawDemod_cs (chunk : List Sample) : (drawDemod chunk s).2.cs = s.cs := rfl
@[simp] theorem drawDemod_af (chunk : List Sample) : (drawDemod chunk s).2.af = s.af := rfl
@[simp] theorem drawDemod_tx (chunk : List Sample) : (drawDemod chunk s).2.tx = s.tx := rfl
@[simp] theorem drawDemod_pttKeyed (chunk : List Sample) : (drawDemod chunk s).2.pttKeyed = s.pttKeyed := rfl
@[simp] theorem drawDemod_rxBuf (chunk : List Sample) : (drawDemod chunk s).2.rxBuf = s.rxBuf := rfl
@[simp] theorem drawDemod_hostOut (chunk : List Sample) : (drawDemod chunk s).2.hostOut = s.hostOut := rfl
@[simp] theorem drawDemod_trace (chunk : List Sample) : (drawDemod chunk s).2.trace = s.trace := rfl
@[simp] theorem drawDemod_log (chunk : List Sample) : (drawDemod chunk s).2.log = s.log := rfl
@[simp] theorem drawDemod_fatal (chunk : List Sample) : (drawDemod chunk s).2.fatal = s.fatal := rfl
@[simp] theorem drawDemod_booted (chunk : List Sample) : (drawDemod chunk s).2.booted = s.booted := rfl
@[simp] theorem drawDemod_replies (chunk : List Sample) : (drawDemod chunk s).2.replies = s.replies := rfl
@[simp] theorem drawDemod_pending (chunk : List Sample) : (drawDemod chunk s).2.pending = s.pending := rfl

@[simp] theorem drawMod_cfg (f : Frame) : (drawMod f s).2.cfg = s.cfg := rfl
@[simp] theorem drawMod_hf (f : Frame) : (drawMod f s).2.hf = s.hf := rfl
@[simp] theorem drawMod_cs (f : Frame) : (drawMod f s).2.cs = s.cs := rfl
@[simp] theorem drawMod_af (f : Frame) : (drawMod f s).2.af = s.af := rfl
@[simp] theorem drawMod_tx (f : Frame) : (drawMod f s).2.tx = s.tx := rfl
@[simp] theorem drawMod_pttKeyed (f : Frame) : (drawMod f s).2.pttKeyed = s.pttKeyed := rfl
@[simp] theorem drawMod_rxBuf (f : Frame) : (drawMod f s).2.rxBuf = s.rxBuf := rfl
@[simp] theorem drawMod_hostOut (f : Frame) : (drawMod f s).2.hostOut = s.hostOut := rfl
@[simp] theorem drawMod_trace (f : Frame) : (drawMod f s).2.trace = s.trace := rfl
@[simp] theorem drawMod_log (f : Frame) : (drawMod f s).2.log = s.log := rfl
@[simp] theorem drawMod_fatal (f : Frame) : (drawMod f s).2.fatal = s.fatal := rfl
@[simp] theorem drawMod_booted (f : Frame) : (drawMod f s).2.booted = s.booted := rfl
@[simp] theorem drawMod_replies (f : Frame) : (drawMod f s).2.replies = s.replies := rfl
@[simp] theorem drawMod_pending (f : Frame) : (drawMod f s).2.pending = s.pending := rfl

end Sys2Proof.Machine
end

