-- ==== Sys2Proof/Laws/Ops.lean ====
section
/-! SUPPORT. What the guard of the events, the choice of the next input and the draws can do, said once each. -/

namespace Sys2Proof.Machine

/-- A live block runs the meaning of an event that is ready. -/
theorem takeEvent_of_live {i : Instr} {s : State} {k : State → Result} (h : live s) (hr : ready i s = true) :
    takeEvent i s k = k s := by
  simp [takeEvent, enabled, h.1, h.2, hr]

/-- If the guard answers a next state, the block is booted, and the event either ran or left the state as it was. -/
theorem takeEvent_next {i : Instr} {s t : State} {k : State → Result} (h : takeEvent i s k = .next t) :
    s.booted = true ∧ ((s.fatal = none ∧ ready i s = true ∧ k s = .next t) ∨ (enabled i s = false ∧ t = s)) := by
  unfold takeEvent at h
  split at h
  · rename_i hb
    split at h
    · rename_i he
      simp only [enabled, Bool.and_eq_true, Option.isNone_iff_eq_none] at he
      exact ⟨hb, .inl ⟨he.1, he.2, h⟩⟩
    · rename_i he
      injection h with h
      exact ⟨hb, .inr ⟨by simpa using he, h.symm⟩⟩
  · cases h

/-- A guard whose meaning never faults never faults. -/
theorem takeEvent_ne_fault {i : Instr} {s : State} {k : State → Result} {f : Fault} (h : k s ≠ .fault f) :
    takeEvent i s k ≠ .fault f := by
  unfold takeEvent
  split
  · split
    · exact h
    · intro h; cases h
  · intro h; cases h

/-- Inputs that wait are passed over, in their order. -/
theorem firstReady_append {s : State} {x : Input} (after : List Input) (hx : inputWaits s x = false) :
    ∀ before, (∀ y ∈ before, inputWaits s y = true) →
      firstReady s (before ++ x :: after) = some (x, before ++ after)
  | [], _ => by simp [firstReady, hx]
  | b :: bs, h => by
    simp [firstReady, h b (by simp), firstReady_append after hx bs fun y hy => h y (by simp [hy])]

/-- If every pending input waits, there is no next one. -/
theorem firstReady_eq_none {s : State} : ∀ l, (∀ y ∈ l, inputWaits s y = true) → firstReady s l = none
  | [], _ => rfl
  | b :: bs, h => by simp [firstReady, h b (by simp), firstReady_eq_none bs fun y hy => h y (by simp [hy])]

/-- If a step answers a next state, either no input was ready and nothing changed, or it ran one instruction with that
input taken out. -/
theorem step_next {s t : State} (h : step s = .next t) :
    t = s ∨ ∃ i rest, exec i { s with pending := rest } = .next t := by
  unfold step at h
  split at h
  · injection h with h
    exact .inl h.symm
  · split at h
    · cases h
    · exact .inr ⟨_, _, h⟩

/-! Draws: the frame of each as one equation, and what the contracts give. -/

variable (s : State)

theorem drawModemOpen_frame :
    (drawModemOpen s).2 = { s with env := (drawModemOpen s).2.env, drawn := (drawModemOpen s).2.drawn } := rfl
theorem drawPre_frame : (drawPre s).2 = { s with env := (drawPre s).2.env, drawn := (drawPre s).2.drawn } := rfl
theorem drawPost_frame : (drawPost s).2 = { s with env := (drawPost s).2.env, drawn := (drawPost s).2.drawn } := rfl
theorem drawMod_frame (f : Frame) :
    (drawMod f s).2 = { s with env := (drawMod f s).2.env, drawn := (drawMod f s).2.drawn } := rfl
theorem drawWrite_frame : (drawWrite s).2 = { s with env := (drawWrite s).2.env, drawn := (drawWrite s).2.drawn } := rfl
theorem drawDrained_frame :
    (drawDrained s).2 = { s with env := (drawDrained s).2.env, drawn := (drawDrained s).2.drawn } := rfl
theorem drawNin_frame : (drawNin s).2 = { s with env := (drawNin s).2.env, drawn := (drawNin s).2.drawn } := rfl
theorem drawDemod_frame (chunk : List Sample) :
    (drawDemod chunk s).2 = { s with env := (drawDemod chunk s).2.env, drawn := (drawDemod chunk s).2.drawn } := rfl

theorem blockEnergy_frame (blk : List Sample) :
    (blockEnergy blk s).2 = { s with env := (blockEnergy blk s).2.env } := by
  unfold blockEnergy drawEnergy
  split
  · rfl
  · split <;> rfl

/-- With queued answers inside the contract, NIN is inside it, and so are the answers left. -/
theorem drawNin_ok (h : ∀ n ∈ s.env.nin, ninOk s.cfg n = true) (hm : 1 ≤ s.cfg.maxRxSamples) :
    ninOk s.cfg (drawNin s).1 = true ∧ ∀ n ∈ (drawNin s).2.env.nin, ninOk s.cfg n = true := by
  unfold drawNin draw
  cases hq : s.env.nin with
  | nil =>
    have := Nat.mod_lt (Config.freeNin s.drawn) (show s.cfg.maxRxSamples > 0 by omega)
    simp [ninOk]
    omega
  | cons a rest =>
    rw [hq] at h
    exact ⟨h a (by simp), fun n hn => h n (by simpa using .inr hn)⟩

/-- The configuration's ENERGY_DB keeps the law of R181. -/
theorem energyDb_ok (c : Cfg) (blk : List Sample) : c.floorDb.val ≤ (energyDb c blk).val := by
  simp only [energyDb, val_maxReal]
  exact le_max_left _ _

/-- The energy of a block with queued answers inside the contract is at least the floor. -/
theorem blockEnergy_ok (blk : List Sample) (h : ∀ x ∈ s.env.energy, s.cfg.floorDb.val ≤ x.val) :
    s.cfg.floorDb.val ≤ (blockEnergy blk s).1.val := by
  unfold blockEnergy drawEnergy
  split
  · exact le_rfl
  · split
    · rename_i e rest hq
      exact h e (by simp [hq])
    · exact energyDb_ok _ _

/-- The default ENERGY_DB as the formula of R181. -/
theorem val_meanSquareDb (blk : List Sample) : (meanSquareDb blk).val
    = dbValue (blk.map fun x => x.toInt.natAbs ^ 2).sum (blk.length * 32768 ^ 2) := by
  simp [meanSquareDb, Energy.val, Energy.valWith, Term.valWith, logValue]

/-- The smoothing as the formula of R183. -/
theorem val_smooth (c : Cfg) (e v : Energy) :
    (smooth c e v).val = (1 - c.alpha.val) * v.val + c.alpha.val * e.val := by
  simp only [smooth, val_addReal, val_subReal, val_weigh]; ring

/-- The three bands of R184. -/
theorem classify_eq (c : Cfg) (v : Energy) : classify c v = if c.upperDb.val < v.val then .busy
    else if v.val < c.lowerDb.val then .quiet else .dead := by
  simp only [classify, ltReal_iff]

/-- The gate moves no energy. -/
@[simp] theorem gate_smoothed (c : Cfg) (n : Nat) (cs : ChannelEnergy) : (gate c n cs).smoothed = cs.smoothed := by
  unfold gate
  split <;> rfl

theorem blockEnergy_silent (blk : List Sample) (h : ∀ x ∈ blk, x = 0) : (blockEnergy blk s).1 = s.cfg.floorDb := by
  have : blk.all (· = 0) = true := by simpa using h
  rw [blockEnergy, if_pos this]

end Sys2Proof.Machine
end

