-- ==== Sys2Proof/Laws/AirFramer.lean ====
section
/-! SUPPORT. What the AirFramer's operations and the receive path can do, said once each. -/

namespace Sys2Proof.Machine

/-- The results a frame operation may have: only the reassembly and the log change, the log by at most one record. -/
def airResult (s : State) (r : State × Option Packet) : Prop :=
  r.1 = { s with af := r.1.af, log := r.1.log } ∧ ∃ l, r.1.log = s.log ++ l ∧ l.length ≤ 1

variable {s : State}

theorem airResult_same (o : Option Packet) : airResult s (s, o) := ⟨rfl, [], by simp⟩

theorem airSingleOp_result (len : Field) (rest : List Byte) : airResult s (airSingleOp len rest s) := by
  unfold airSingleOp
  split
  · exact ⟨rfl, [_], rfl, by simp⟩
  · exact airResult_same _

theorem airBeginOp_result (fid : Field) (rest : List Byte) : airResult s (airBeginOp fid rest s) :=
  ⟨rfl, [], by simp [airBeginOp]⟩

theorem airFragOp_result (fid : Field) (rest : List Byte) : airResult s (airFragOp fid rest s) := by
  unfold airFragOp
  split
  · exact ⟨rfl, [], by simp⟩
  · exact ⟨rfl, [_], rfl, by simp⟩

theorem airEndOp_result (len : Field) (rest : List Byte) : airResult s (airEndOp len rest s) := by
  unfold airEndOp
  split
  · exact ⟨rfl, [_], rfl, by simp⟩
  · split
    · exact ⟨rfl, [], by simp⟩
    · exact ⟨rfl, [_], rfl, by simp⟩

theorem sizedFrame_result {rest : List Byte} {op : State → State × Option Packet} (h : airResult s (op s)) :
    airResult s (sizedFrame rest op s) := by
  unfold sizedFrame
  split
  · exact h
  · exact ⟨rfl, [_], rfl, by simp⟩

theorem airDecode_result (f : Frame) : airResult s (airDecode f s) := by
  unfold airDecode
  split
  · split
    · exact airResult_same _
    · exact ⟨rfl, [_], rfl, by simp⟩
  · split
    · exact sizedFrame_result (airSingleOp_result _ _)
    · exact sizedFrame_result (airBeginOp_result _ _)
    · exact sizedFrame_result (airFragOp_result _ _)
    · exact sizedFrame_result (airEndOp_result _ _)

/-- What forwarding a result does: only the reassembly, the log and the host output change; the log by at most one
record, the output by the wire form of whole packets. -/
def rxResult (s t : State) : Prop :=
  t = { s with af := t.af, log := t.log, hostOut := t.hostOut }
    ∧ (∃ l, t.log = s.log ++ l ∧ l.length ≤ 1)
    ∧ ∃ ps : List Packet, t.hostOut = s.hostOut ++ ps.flatMap hostEncode

theorem forward_result {r : State × Option Packet} (h : airResult s r) : rxResult s (forward r) := by
  obtain ⟨hf, hl⟩ := h
  unfold forward
  split
  · rename_i p hp
    exact ⟨by rw [hf]; rfl, by simpa using hl, [p], by rw [hf]; simp⟩
  · exact ⟨by rw [hf], hl, [], by rw [hf]; simp⟩

theorem receiveFrame_result (f : Frame) : rxResult s (receiveFrame f s) := forward_result (airDecode_result f)

/-- One pass of the loop by its draw: the chunk is taken off the buffer, and the frame, if any, is received. -/
theorem demodulate_eq (n : Nat) : demodulate n s =
    match (drawDemod (s.rxBuf.take n) { s with rxBuf := s.rxBuf.drop n }).1 with
    | none => (drawDemod (s.rxBuf.take n) { s with rxBuf := s.rxBuf.drop n }).2
    | some f => receiveFrame f (drawDemod (s.rxBuf.take n) { s with rxBuf := s.rxBuf.drop n }).2 := rfl

/-- One pass of the demodulation loop: the buffer loses its oldest `n` samples; beside it only the answers, the
reassembly, the log and the host output change. -/
theorem demodulate_frame (n : Nat) : demodulate n s = { s with
    rxBuf := s.rxBuf.drop n, env := (demodulate n s).env, drawn := (demodulate n s).drawn, af := (demodulate n s).af,
    log := (demodulate n s).log, hostOut := (demodulate n s).hostOut } := by
  rw [demodulate_eq]
  split
  · rfl
  · rw [(receiveFrame_result _).1]; rfl

/-- The log and the host output only grow in one pass. -/
theorem demodulate_grows (n : Nat) : (∃ l, (demodulate n s).log = s.log ++ l)
    ∧ ∃ ps : List Packet, (demodulate n s).hostOut = s.hostOut ++ ps.flatMap hostEncode := by
  rw [demodulate_eq]
  split
  · exact ⟨⟨[], by simp⟩, [], by simp⟩
  · rename_i f _
    obtain ⟨_, ⟨l, h1, _⟩, ps, h2⟩ :=
      receiveFrame_result (s := (drawDemod (s.rxBuf.take n) { s with rxBuf := s.rxBuf.drop n }).2) f
    exact ⟨⟨l, h1⟩, ps, h2⟩

/-- One pass takes at most one DEMOD answer and leaves the others, those of NIN among them. -/
theorem demodulate_nin (n : Nat) : (demodulate n s).env.nin = s.env.nin := by
  rw [demodulate_eq]
  split
  · rfl
  · rw [(receiveFrame_result _).1]; rfl

/-- The contract of NIN as a proposition (R362). -/
theorem ninOk_iff (c : Cfg) (n : Nat) : ninOk c n = true ↔ 1 ≤ n ∧ n ≤ c.maxRxSamples := by simp [ninOk]

/-- The whole loop: what is left of the buffer is a suffix of it, shorter than the last NIN; beside it only the answers,
the reassembly, the log and the host output change. -/
theorem rxLoop_some : ∀ (fuel : Nat) (s t : State), s.rxBuf.length ≤ fuel → rxLoop fuel s = some t →
    (t = { s with
      rxBuf := t.rxBuf, env := t.env, drawn := t.drawn, af := t.af, log := t.log, hostOut := t.hostOut })
    ∧ t.rxBuf <:+ s.rxBuf ∧ t.rxBuf.length < s.cfg.maxRxSamples
    ∧ (∃ l, t.log = s.log ++ l) ∧ ∃ ps : List Packet, t.hostOut = s.hostOut ++ ps.flatMap hostEncode
  | 0, s, t, hf, h => by
    simp only [rxLoop] at h
    split at h
    · rename_i hn
      injection h with h
      subst h
      rw [ninOk_iff] at hn; simp only [drawNin_cfg] at hn
      exact ⟨rfl, List.suffix_refl _, by simp only [drawNin_rxBuf]; omega, ⟨[], by simp⟩, [], by simp⟩
    · cases h
  | fuel + 1, s, t, hf, h => by
    simp only [rxLoop] at h
    split at h
    · rename_i hn
      rw [ninOk_iff] at hn; simp only [drawNin_cfg] at hn
      split at h
      · rename_i hlt
        injection h with h
        subst h
        exact ⟨rfl, List.suffix_refl _, by simp only [drawNin_rxBuf] at hlt ⊢; omega, ⟨[], by simp⟩, [], by simp⟩
      · rename_i hge
        have hd := demodulate_frame (s := (drawNin s).2) (drawNin s).1
        obtain ⟨⟨l, hl⟩, ps, hps⟩ := demodulate_grows (s := (drawNin s).2) (drawNin s).1
        have hb : (demodulate (drawNin s).1 (drawNin s).2).rxBuf = s.rxBuf.drop (drawNin s).1 := by rw [hd]; rfl
        have hc : (demodulate (drawNin s).1 (drawNin s).2).cfg = s.cfg := by rw [hd]; rfl
        obtain ⟨h1, h2, h3, ⟨l', h4⟩, ps', h5⟩ :=
          rxLoop_some fuel _ t (by rw [hb, List.length_drop]; omega) h
        refine ⟨?_, ?_, ?_, ⟨l ++ l', ?_⟩, ps ++ ps', ?_⟩
        · rw [h1, hd]; rfl
        · rw [hb] at h2
          exact h2.trans (List.drop_suffix _ _)
        · rw [hc] at h3; exact h3
        · rw [h4, hl]; simp
        · rw [h5, hps]; simp
    · cases h

/-- With queued answers inside the contract the loop ends in a state. -/
theorem rxLoop_completes : ∀ (fuel : Nat) (s : State), (∀ n ∈ s.env.nin, ninOk s.cfg n = true) →
    1 ≤ s.cfg.maxRxSamples → ∃ t, rxLoop fuel s = some t
  | 0, s, h, hm => by
    have := (drawNin_ok s h hm).1
    exact ⟨(drawNin s).2, by simp [rxLoop, this]⟩
  | fuel + 1, s, h, hm => by
    obtain ⟨h1, h2⟩ := drawNin_ok s h hm
    simp only [rxLoop, drawNin_cfg, h1, if_true]
    split
    · exact ⟨_, rfl⟩
    · have hd := demodulate_frame (s := (drawNin s).2) (drawNin s).1
      have hc : (demodulate (drawNin s).1 (drawNin s).2).cfg = s.cfg := by rw [hd]; rfl
      refine rxLoop_completes fuel _ ?_ (by rw [hc]; exact hm)
      rw [demodulate_nin, hc]; exact h2

/-- ChannelSense.update: only the energy answers and the gate change; the energy is within its law (R181). -/
theorem csUpdate_some {blk : List Sample} {t : State} (h : csUpdate blk s = some t) :
    t = { s with env := t.env, cs := t.cs } ∧ (blk = [] → t = s)
      ∧ (blk ≠ [] → s.cfg.floorDb.val ≤ (blockEnergy blk s).1.val ∧ t.env = (blockEnergy blk s).2.env
          ∧ t.cs = sense s.cfg (blockEnergy blk s).1 blk.length s.cs) := by
  unfold csUpdate at h
  split at h
  · rename_i hb
    injection h with h
    subst h
    exact ⟨rfl, fun _ => rfl, fun h => absurd hb h⟩
  · rename_i hb
    have hf := blockEnergy_frame s blk
    have hc : (blockEnergy blk s).2.cfg = s.cfg := by rw [hf]
    have hcs : (blockEnergy blk s).2.cs = s.cs := by rw [hf]
    simp only [hc, hcs] at h
    split at h
    · cases h
    · rename_i he
      injection h with h
      subst h
      refine ⟨?_, fun h => absurd h hb, fun _ => ⟨not_lt.mp fun hh => he ((ltReal_iff _ _).mpr hh), rfl, rfl⟩⟩
      rw [hf]

/-- With queued answers inside the contract the update completes. -/
theorem csUpdate_completes {blk : List Sample} (h : ∀ x ∈ s.env.energy, s.cfg.floorDb.val ≤ x.val) :
    ∃ t, csUpdate blk s = some t := by
  unfold csUpdate
  split
  · exact ⟨_, rfl⟩
  · have hc : (blockEnergy blk s).2.cfg = s.cfg := by rw [blockEnergy_frame]
    have := blockEnergy_ok s blk h
    simp only [hc]
    rw [if_neg (by rw [ltReal_iff]; exact not_lt.mpr this)]
    exact ⟨_, rfl⟩

/-- The answers that ChannelSense.update does not ask for pass through it. -/
theorem csUpdate_env (blk : List Sample) (nins : List Nat) (demods : List (Option Frame)) :
    csUpdate blk { s with env := { s.env with nin := nins, demod := demods } }
      = (csUpdate blk s).map fun u => { u with env := { u.env with nin := nins, demod := demods } } := by
  by_cases hb : blk = []
  · simp only [csUpdate, if_pos hb, Option.map_some]
  · simp only [csUpdate, if_neg hb, blockEnergy, drawEnergy]
    by_cases hz : blk.all (· = 0) = true
    · simp only [if_pos hz]
      by_cases hl : ltReal s.cfg.floorDb s.cfg.floorDb = true
      · simp only [if_pos hl, Option.map_none]
      · simp only [if_neg hl, Option.map_some]
    · simp only [if_neg hz]
      cases hq : s.env.energy with
      | nil =>
        by_cases hl : ltReal (energyDb s.cfg blk) s.cfg.floorDb = true
        · simp only [if_pos hl, Option.map_none]
        · simp only [if_neg hl, Option.map_some, hq]
      | cons e rest =>
        by_cases hl : ltReal e s.cfg.floorDb = true
        · simp only [if_pos hl, Option.map_none]
        · simp only [if_neg hl, Option.map_some]

/-- ChannelSense.update asks for no NIN and no frame. -/
theorem csUpdate_answers {blk : List Sample} {t : State} (h : csUpdate blk s = some t) :
    t.env.nin = s.env.nin ∧ t.env.demod = s.env.demod := by
  have h2 : some t = some { t with env := { t.env with nin := s.env.nin, demod := s.env.demod } } := by
    rw [← h]
    exact (csUpdate_env (s := s) blk s.env.nin s.env.demod).trans (by rw [h]; rfl)
  injection h2 with h2
  exact ⟨congrArg (·.env.nin) h2, congrArg (·.env.demod) h2⟩

/-! The draws of RX_FRAME (R123): they change the queued answers only, and ChannelSense does not see them. -/

@[simp] theorem answerFrame_cfg (n : Nat) (f : Frame) : (s.answerFrame n f).cfg = s.cfg := rfl
@[simp] theorem answerFrame_pttKeyed (n : Nat) (f : Frame) : (s.answerFrame n f).pttKeyed = s.pttKeyed := rfl
@[simp] theorem answerFrame_rxBuf (n : Nat) (f : Frame) : (s.answerFrame n f).rxBuf = s.rxBuf := rfl
@[simp] theorem answerFrame_booted (n : Nat) (f : Frame) : (s.answerFrame n f).booted = s.booted := rfl
@[simp] theorem answerFrame_fatal (n : Nat) (f : Frame) : (s.answerFrame n f).fatal = s.fatal := rfl

theorem answerFrame_frame (n : Nat) (f : Frame) : s.answerFrame n f = { s with env := (s.answerFrame n f).env } := rfl

theorem csUpdate_answerFrame (blk : List Sample) (n : Nat) (f : Frame) :
    csUpdate blk (s.answerFrame n f) = (csUpdate blk s).map fun u => u.answerFrame n f := by
  unfold State.answerFrame
  rw [csUpdate_env (s := s) blk (n :: s.env.nin) (some f :: s.env.demod)]
  cases h : csUpdate blk s with
  | none => rfl
  | some u =>
    obtain ⟨h1, h2⟩ := csUpdate_answers h
    simp only [Option.map_some, h1, h2]

/-- The fuel of the loop does not matter once it covers the buffer. -/
theorem rxLoop_fuel : ∀ (n m : Nat) (s : State), s.rxBuf.length ≤ n → s.rxBuf.length ≤ m → rxLoop n s = rxLoop m s
  | 0, 0, _, _, _ => rfl
  | 0, m + 1, s, hn, _ => by
    simp only [rxLoop]
    split
    · rename_i h
      rw [ninOk_iff] at h
      rw [if_pos (by simp only [drawNin_rxBuf]; omega)]
    · rfl
  | n + 1, 0, s, _, hm => by
    simp only [rxLoop]
    split
    · rename_i h
      rw [ninOk_iff] at h
      rw [if_pos (by simp only [drawNin_rxBuf]; omega)]
    · rfl
  | n + 1, m + 1, s, hn, hm => by
    simp only [rxLoop]
    split
    · rename_i h
      rw [ninOk_iff] at h
      split
      · rfl
      · have hd := demodulate_frame (s := (drawNin s).2) (drawNin s).1
        have hb : (demodulate (drawNin s).1 (drawNin s).2).rxBuf = s.rxBuf.drop (drawNin s).1 := by rw [hd]; rfl
        exact rxLoop_fuel n m _ (by rw [hb, List.length_drop]; omega) (by rw [hb, List.length_drop]; omega)
    · rfl

/-- A header built from a kind and a field reads back as both (R111). -/
theorem airHeader_field (t : Tags) (k : AirKind) (f : Field) : headerField (airHeader t k f) = f := by
  have : ∀ (a : BitVec 2) (b : BitVec 6), (a ++ b).extractLsb' 0 6 = b := by decide +kernel
  exact this _ f

theorem airHeader_tag (t : Tags) (k : AirKind) (f : Field) : headerTag (airHeader t k f) = tagOfKind t k := by
  have : ∀ (a : BitVec 2) (b : BitVec 6), (a ++ b).extractLsb' 6 2 = a := by decide +kernel
  exact this _ f

theorem kindOfTag_tagOfKind {t : Tags} (h : t.distinct = true) (k : AirKind) : kindOfTag t (tagOfKind t k) = k := by
  simp only [Tags.distinct, Bool.and_eq_true, decide_eq_true_eq, ne_eq] at h
  cases k <;> simp_all [kindOfTag, tagOfKind, eq_comm]

/-- A frame of a known kind under distinct tag codes. -/
theorem airDecode_cons (h : s.cfg.tags.distinct = true) (k : AirKind) (f : Field) (rest : List Byte) :
    airDecode (airHeader s.cfg.tags k f :: rest) s = sizedFrame rest (match k with
      | .single => airSingleOp f rest
      | .begin1 => airBeginOp f rest
      | .frag => airFragOp f rest
      | .end1 => airEndOp f rest) s := by
  simp only [airDecode, airHeader_tag, airHeader_field, kindOfTag_tagOfKind h]
  cases k <;> rfl

end Sys2Proof.Machine
end

