-- ==== Sys2Proof/Laws/HostFramer.lean ====
section
/-! SUPPORT. What the HostFramer's operations can do, said once each. -/

namespace Sys2Proof.Machine

variable (s : State) (b : Byte)

/-- The unmasking as the table of R147. -/
theorem unmask_table : ∀ b : Byte, unmask b = if b = 0x5E then 0x7E else if b = 0x5D then 0x7D else b := by
  decide +kernel

/-- `deliver` changes only the queue and the log. -/
theorem deliver_frame (p : Packet) :
    deliver p s = { s with tx := { s.tx with queue := (deliver p s).tx.queue }, log := (deliver p s).log } := by
  unfold deliver
  split <;> rfl

theorem put_frame : put b s = { s with hf := (put b s).hf, log := (put b s).log } := by
  unfold put
  split <;> rfl

theorem delimiter_frame : delimiter s = { s with
    hf := (delimiter s).hf, tx := { s.tx with queue := (delimiter s).tx.queue }, log := (delimiter s).log } := by
  unfold delimiter
  split
  · split
    · rfl
    · rw [deliver_frame]; rfl
  · rfl

/-- A host byte changes only the decoder, the queue and the log. -/
theorem hostByteOp_frame : hostByteOp b s = { s with
    hf := (hostByteOp b s).hf, tx := { s.tx with queue := (hostByteOp b s).tx.queue }, log := (hostByteOp b s).log } := by
  unfold hostByteOp
  split
  · split <;> rfl
  · split
    · exact delimiter_frame s
    · split
      · unfold escaped; rw [put_frame]
      · split
        · rfl
        · rw [put_frame]

/-- Delivering adds at most one log record. -/
theorem deliver_log (p : Packet) : ∃ l, (deliver p s).log = s.log ++ l ∧ l.length ≤ 1 := by
  unfold deliver
  split
  · exact ⟨[], by simp⟩
  · exact ⟨[_], rfl, by simp⟩

theorem put_log : ∃ l, (put b s).log = s.log ++ l ∧ l.length ≤ 1 := by
  unfold put
  split
  · exact ⟨[_], rfl, by simp⟩
  · exact ⟨[], by simp⟩

theorem delimiter_log : ∃ l, (delimiter s).log = s.log ++ l ∧ l.length ≤ 1 := by
  unfold delimiter
  split
  · split
    · exact ⟨[], by simp⟩
    · simpa using deliver_log s s.hf.buf
  · exact ⟨[], by simp⟩

/-- A host byte raises at most one record (R344). -/
theorem hostByteOp_log : ∃ l, (hostByteOp b s).log = s.log ++ l ∧ l.length ≤ 1 := by
  unfold hostByteOp
  split
  · split <;> exact ⟨[], by simp⟩
  · split
    · exact delimiter_log s
    · split
      · exact put_log _ _
      · split
        · exact ⟨[], by simp⟩
        · exact put_log _ _

/-- Each byte class is the byte through the decoder, for HOST.DELIM (R103). -/
theorem delimiter_eq_hostByteOp : delimiter s = hostByteOp DELIM s := by
  unfold hostByteOp
  split
  · rename_i h; simp [delimiter, h]
  · simp

theorem hostEsc_eq_hostByteOp :
    (if s.hf.inFrame ∧ ¬ s.hf.escape then setEscape s else hostByteOp ESC s) = hostByteOp ESC s := by
  split
  · rename_i h; simp [hostByteOp, h.1, h.2, DELIM, ESC]
  · rfl

theorem hostEscaped_eq_hostByteOp :
    (if s.hf.inFrame ∧ s.hf.escape ∧ b ≠ DELIM then escaped b s else hostByteOp b s) = hostByteOp b s := by
  split
  · rename_i h; simp [hostByteOp, h.1, h.2.1, h.2.2]
  · rfl

theorem hostData_eq_hostByteOp :
    (if s.hf.inFrame ∧ ¬ s.hf.escape ∧ b ≠ DELIM ∧ b ≠ ESC then put b s else hostByteOp b s) = hostByteOp b s := by
  split
  · rename_i h; simp [hostByteOp, h.1, h.2.1, h.2.2.1, h.2.2.2]
  · rfl

end Sys2Proof.Machine
end

