-- ==== Sys2Proof/Laws/PerInstr.lean ====
section
/-! SUPPORT. Per instruction: its encoding has the format of its row in spec/opcode_table.json. -/

namespace Sys2Proof.Laws

/-- The formats of the opcode table's rows: a packed event of one or of three digits (R121), a byte of the host wire
(R103), an air frame with its header (R111). -/
inductive Format where
  | event4
  | event12
  | hostWireByte
  | airHeader
deriving DecidableEq, Repr

/-- The format of each row. -/
def formatOf : Instr → Format
  | .boot _ => .event4
  | .hostByte _ => .event12
  | .txStep => .event4
  | .txCancel => .event4
  | .rxBlock _ => .event4
  | .mayTx => .event4
  | .pttStatus => .event4
  | .hostDelim => .hostWireByte
  | .hostEsc => .hostWireByte
  | .hostEscaped _ => .hostWireByte
  | .hostData _ => .hostWireByte
  | .airSingle _ _ => .airHeader
  | .airBegin _ _ => .airHeader
  | .airFrag _ _ => .airHeader
  | .airEnd _ _ => .airHeader

/-- An input is in a format. -/
def inFormat : Format → Input → Prop
  | .event4, x => ∃ code oob, x = .event [code] oob
  | .event12, x => ∃ hi lo, x = .event [0x1, hi, lo] .nothing
  | .hostWireByte, x => ∃ b, x = .wire b
  | .airHeader, x => ∃ h rest blk, x = .air h rest blk

end Sys2Proof.Laws

namespace Sys2Proof.Laws.EncodingFormat

/-- The encoding of `i` is in the format of its row, whatever the tag codes. -/
def Statement (i : Instr) : Prop := ∀ t : Tags, inFormat (formatOf i) (encode t i)

theorem boot (a : Args) : Statement (.boot a) := fun _ => ⟨_, _, rfl⟩
theorem hostByte (b : Byte) : Statement (.hostByte b) := fun _ => ⟨_, _, rfl⟩
theorem txStep : Statement .txStep := fun _ => ⟨_, _, rfl⟩
theorem txCancel : Statement .txCancel := fun _ => ⟨_, _, rfl⟩
theorem rxBlock (blk : List Sample) : Statement (.rxBlock blk) := fun _ => ⟨_, _, rfl⟩
theorem mayTx : Statement .mayTx := fun _ => ⟨_, _, rfl⟩
theorem pttStatus : Statement .pttStatus := fun _ => ⟨_, _, rfl⟩
theorem hostDelim : Statement .hostDelim := fun _ => ⟨_, rfl⟩
theorem hostEsc : Statement .hostEsc := fun _ => ⟨_, rfl⟩
theorem hostEscaped (b : Byte) : Statement (.hostEscaped b) := fun _ => ⟨_, rfl⟩
theorem hostData (b : Byte) : Statement (.hostData b) := fun _ => ⟨_, rfl⟩
theorem airSingle (len : Field) (rcv : Received) : Statement (.airSingle len rcv) :=
  fun _ => ⟨_, _, _, rfl⟩
theorem airBegin (fid : Field) (rcv : Received) : Statement (.airBegin fid rcv) :=
  fun _ => ⟨_, _, _, rfl⟩
theorem airFrag (fid : Field) (rcv : Received) : Statement (.airFrag fid rcv) :=
  fun _ => ⟨_, _, _, rfl⟩
theorem airEnd (len : Field) (rcv : Received) : Statement (.airEnd len rcv) :=
  fun _ => ⟨_, _, _, rfl⟩

end Sys2Proof.Laws.EncodingFormat
end

