-- ==== Sys2Proof/Laws/TransmitSequencer.lean ====
section
/-! SUPPORT. What the TransmitSequencer's operations can do, said once each. -/

namespace Sys2Proof.Machine

variable {s t : State}

/-- The encoder is undefined exactly for a packet longer than `64 * P` (R213). -/
theorem airEncode_eq_none (c : Cfg) (p : Packet) : airEncode c p = none ↔ 64 * airP c < p.length := by
  unfold airEncode maxPacketAir
  split
  · simp; omega
  · split <;> simp <;> omega

/-- TX_STEP that is enabled is the action of the phase (R260). -/
theorem exec_txStep (h : live s) (hr : txReady s = true) : exec .txStep s = txPhase s := by
  simp only [exec, execTxStep]
  exact takeEvent_of_live h hr

/-- A write of an amble or of silence and what follows it (R260, R273). -/
theorem emitThen_eq (k : AudioKind) (samples : List Sample) (next : Phase) :
    emitThen k samples next s = if samples = [] then s.setPhase next else afterWrite k samples next s := by
  unfold emitThen emit afterWrite
  by_cases hs : samples = []
  · simp only [if_pos hs]
  · simp only [if_neg hs]
    cases h : (drawWrite s).1 <;> rw [show drawWrite s = ((drawWrite s).1, (drawWrite s).2) from rfl, h] <;> rfl

/-- What FRAME_EMIT does when its frame and the modem's answer are admitted, by the answer of the write (R268). -/
theorem txFrame_eq {f : Frame} (hf : s.tx.frames[s.tx.index]? = some f)
    (hm : (drawMod f s).1.length ≤ s.cfg.maxTxSamples) :
    txFrame s = .next (if (emit .frame (drawMod f s).1 (drawMod f s).2).1 then
        frameDone (emit .frame (drawMod f s).1 (drawMod f s).2).2
      else audioFailed (emit .frame (drawMod f s).1 (drawMod f s).2).2) := by
  have hn : ¬ (drawMod f s).2.cfg.maxTxSamples < (drawMod f s).1.length := by simpa using hm
  simp only [txFrame, hf, if_neg hn]
  split
  · rename_i h; simp [h]
  · rename_i h; simp [h]

/-- `emit` writes the trace and takes an answer; the rest of the state stays. -/
theorem emit_frame (k : AudioKind) (samples : List Sample) : (emit k samples s).2 = { s with
    trace := s.trace ++ written k samples, env := (emit k samples s).2.env, drawn := (emit k samples s).2.drawn } := by
  unfold emit written
  split
  · simp
  · rfl

end Sys2Proof.Machine
end

