-- ==== Sys2Proof/Tests/Slice0.lean ====
section
/-! SUPPORT. Small tests. Expected values come from the encodings of spec/30_encoding.md, from spec/opcode_table.json and
from the vectors of spec/95_test_vectors.md, whose names stand in the comments. The theorems named witness_… show, for
each obligation with hypotheses, concrete values that meet all of them together. -/

namespace Sys2Proof.Tests

open Sys2Proof.Machine

/-! ## WellFormed refuses an ill-formed term for each of its checks. -/

def plain : DecodeCtx := { tags := Tags.default, escape := false }
def escaping : DecodeCtx := { tags := Tags.default, escape := true }

theorem test_wf_esc_while_escaping : Instr.hostEsc.wf escaping = false := by decide
theorem test_wf_escaped_delimiter : (Instr.hostEscaped 0x7E).wf escaping = false := by decide
theorem test_wf_escaped_without_escape : (Instr.hostEscaped 0x5E).wf plain = false := by decide
theorem test_wf_data_delimiter : (Instr.hostData 0x7E).wf plain = false := by decide
theorem test_wf_data_escape : (Instr.hostData 0x7D).wf plain = false := by decide
theorem test_wf_data_while_escaping : (Instr.hostData 0x11).wf escaping = false := by decide
theorem test_wf_single_short : (Instr.airSingle 0 ⟨[0, 0], [0]⟩).wf plain = false := by decide
theorem test_wf_begin_long : (Instr.airBegin 0 ⟨List.replicate 66 0, [0]⟩).wf plain = false := by decide
theorem test_wf_frag_short : (Instr.airFrag 0 ⟨[0, 0], [0]⟩).wf plain = false := by decide
theorem test_wf_end_long : (Instr.airEnd 0 ⟨List.replicate 66 0, [0]⟩).wf plain = false := by decide
theorem test_wf_frame_without_samples : (Instr.airSingle 0 ⟨[0, 0, 0], []⟩).wf plain = false := by decide

/-! ## Every constructor from words written out from its encoding. -/

theorem test_decode_boot : decodeInput plain (.event [0b0000] (.args Args.reference)) = .ok (.boot Args.reference) := by
  decide +kernel
-- Program 1: "17E ... 17D 15E" is HOST_SEND's bytes, `1bb` for HOST_BYTE bb.
theorem test_decode_hostByte : decodeInput plain (.event [0b0001, 0b0101, 0b1110] .nothing) = .ok (.hostByte 0x5E) := by
  decide +kernel
theorem test_decode_txStep : decodeInput plain (.event [0b0010] .nothing) = .ok .txStep := by decide +kernel
theorem test_decode_txCancel : decodeInput plain (.event [0b0011] .nothing) = .ok .txCancel := by decide +kernel
theorem test_decode_rxBlock : decodeInput plain (.event [0b0100] (.samples [1, 2])) = .ok (.rxBlock [1, 2]) := by
  decide +kernel
theorem test_decode_mayTx : decodeInput plain (.event [0b0101] .nothing) = .ok .mayTx := by decide +kernel
theorem test_decode_pttStatus : decodeInput plain (.event [0b0110] .nothing) = .ok .pttStatus := by decide +kernel
theorem test_decode_delim : decodeInput escaping (.wire 0b0111_1110) = .ok .hostDelim := by decide +kernel
theorem test_decode_esc : decodeInput plain (.wire 0b0111_1101) = .ok .hostEsc := by decide +kernel
-- L1-1: 7D after 22 is ESC, 5E after it ESCAPED; H-dec-6: 7D after 7D is ESCAPED.
theorem test_decode_escaped : decodeInput escaping (.wire 0b0101_1110) = .ok (.hostEscaped 0x5E)
    ∧ decodeInput escaping (.wire 0b0111_1101) = .ok (.hostEscaped 0x7D) := by decide +kernel
theorem test_decode_data : decodeInput plain (.wire 0b0101_1110) = .ok (.hostData 0x5E) := by decide +kernel
-- A-enc-3 and g0 to g3 of L1-2: headers 0A, 43, 82, C5.
theorem test_decode_single : decodeInput plain (.air 0b00_001010 [1, 2, 3] [7]) = .ok (.airSingle 10 ⟨[1, 2, 3], [7]⟩) := by
  decide +kernel
theorem test_decode_begin : decodeInput plain (.air 0b01_000011 [1, 2, 3] [7]) = .ok (.airBegin 3 ⟨[1, 2, 3], [7]⟩) := by
  decide +kernel
theorem test_decode_frag : decodeInput plain (.air 0b10_000010 [1, 2, 3] [7]) = .ok (.airFrag 2 ⟨[1, 2, 3], [7]⟩) := by
  decide +kernel
theorem test_decode_end : decodeInput plain (.air 0b11_000101 [1, 2, 3] [7]) = .ok (.airEnd 5 ⟨[1, 2, 3], [7]⟩) := by
  decide +kernel
theorem test_decode_refused : decodeInput plain (.event [0b0111] .nothing) = .error .unusedCode
    ∧ decodeInput plain (.event [0b0001, 0b0101] .nothing) = .error .wrongLength
    ∧ decodeInput plain (.event [0b0100] .nothing) = .error .wrongOperand := by decide +kernel

/-! ## States and frames of the vectors. -/

/-- The reset state with another decoder state. -/
def hostAt (inFrame escape : Bool) (buf : List Byte) : State :=
  { State.reset with hf := { inFrame := inFrame, escape := escape, buf := buf } }

/-- The state of the TX vectors: permission held, in the given phase with the given frames and queue. -/
def txAt (p : Phase) (frames : List Frame) (index : Nat) (queue : List Packet) : State :=
  { State.reset with
    cs := { smoothed := .rat (-60), quiet := 240, allowed := true }
    tx := { phase := p, frames := frames, index := index, polls := 0, queue := queue }
    pttKeyed := p.keyed }

/-- The reset state with another reassembly. -/
def airAt (tag : AirKind) (id : BitVec 8) (acc : List Byte) : State :=
  { State.reset with af := { lastTag := tag, lastId := id, acc := acc } }

/-- The byte values `lo`, `lo + 1`, … -/
def bytesFrom (lo n : Nat) : List Byte := (List.range n).map fun k => BitVec.ofNat 8 (lo + k)

/-- The frame SAB of A-enc-2. -/
def sab : Frame := [0x02, 0xAA, 0xBB, 0, 0, 0, 0, 0, 0, 0, 0, 0x72, 0x4F]

/-- The frames g0 to g3 of L1-2. -/
def g : List Frame := [0x43 :: (bytesFrom 0x00 10 ++ [0xCB, 0x58]), 0x82 :: (bytesFrom 0x0A 10 ++ [0x5B, 0x3C]),
  0x81 :: (bytesFrom 0x14 10 ++ [0xF5, 0xC1]),
  [0xC5, 0x1E, 0x1F, 0x20, 0x21, 0x22, 0, 0, 0, 0, 0, 0xE5, 0x01]]

/-- The state in which a block of one sample is received: the next NIN is 160. -/
def listening (s : State) : State := { s with env := { Env.empty with nin := [160] } }

/-- The reset state's gate after one silent sample (FLOOR_DB = -60 by R181). -/
def afterSilence (s : State) : State := { s with cs := { smoothed := .rat (-60), quiet := 1, allowed := false } }

/-- 12 bytes after a header, for `F = 13`. -/
def rest12 : List Byte := bytesFrom 0x20 12

/-- They, received with one silent sample. -/
def rcv12 : Received := { rest := rest12, blk := [0] }

/-! ## Functions (section 0, L1-1, H-enc, A-enc, L1-2). -/

theorem test_crc_check_value : crcCcittFalse [0x31, 0x32, 0x33, 0x34, 0x35, 0x36, 0x37, 0x38, 0x39] = 0x29B1 := by
  decide +kernel
theorem test_host_encode : hostEncode [0x11, 0x7E, 0x22, 0x7D, 0x33]
    = [0x7E, 0x11, 0x7D, 0x5E, 0x22, 0x7D, 0x5D, 0x33, 0x7E] ∧ hostEncode [] = [0x7E, 0x7E] := by decide +kernel
theorem test_air_encode_single : airEncode Cfg.reference [0xAA, 0xBB] = some [sab] := by decide +kernel
theorem test_air_encode_multi : airEncode Cfg.reference (bytesFrom 0 35) = some g := by decide +kernel

/-! ## One step each. -/

/-- The next state of an instruction, if it has one. -/
def run (i : Instr) (s : State) : Option State :=
  match exec i s with
  | .next t => some t
  | _ => none

-- B-1 and B-3.
def bootEnv (ptt : Bool) : Env := { Env.empty with
  modemOpen := [true], bitsPerFrame := [104], maxTx := [1000], maxRx := [400], pttAcquire := [ptt], audioOut := [true],
  audioIn := [true] }
theorem test_boot_succeeds : run (.boot Args.reference) { State.reset with booted := false, env := bootEnv true }
    = some State.reset := by decide +kernel
theorem test_boot_ptt_fails : run (.boot Args.reference) { State.reset with env := bootEnv false }
    = some { State.reset with trace := [], log := [.resource .ptt], fatal := some .ptt, env := { bootEnv false with
        modemOpen := [], bitsPerFrame := [], maxTx := [], maxRx := [], pttAcquire := [] } } := by decide +kernel

-- H-dec-4: the DELIM wins over the escape. H-q-3: DROP_OLDEST.
theorem test_hostByte_delim_after_escape : run (.hostByte 0x7E) (hostAt true true [0x01])
    = some { hostAt true false [] with tx := { Transmit.reset with queue := [[0x01]] } } := by decide +kernel
theorem test_hostDelim_drops_oldest :
    run .hostDelim { hostAt true false [0x09] with
      cfg := { Cfg.reference with txqPolicy := .dropOldest }, tx := { Transmit.reset with queue := [[1, 2, 3]] } }
    = some { hostAt true false [] with
      cfg := { Cfg.reference with txqPolicy := .dropOldest }, tx := { Transmit.reset with queue := [[9]] }
      log := [.txqDrop 3] } := by decide +kernel
-- H-dec-2 (in idle 7D sets no escape) and H-dec-15.
theorem test_hostEsc : run .hostEsc State.reset = some State.reset
    ∧ run .hostEsc (hostAt true false [1]) = some (hostAt true true [1]) := by decide +kernel
-- H-dec-5, H-dec-6, H-dec-8.
theorem test_hostEscaped : run (.hostEscaped 0x41) (hostAt true true []) = some (hostAt true false [0x41])
    ∧ run (.hostEscaped 0x7D) (hostAt true true []) = some (hostAt true false [0x7D])
    ∧ run (.hostEscaped 0x5E) (hostAt true true []) = some (hostAt true false [0x7E]) := by decide +kernel
-- H-dec-13: the fifth byte with HOST_MTU 4.
def mtu4 (s : State) : State := { s with cfg := { Cfg.reference with hostMtu := 4 } }
theorem test_hostData_overflow : run (.hostData 0x05) (mtu4 (hostAt true false [1, 2, 3, 4]))
    = some { mtu4 State.reset with log := [.hostOverflow 5] } := by decide +kernel

-- T-1 steps 1 and 2, T-4, T-7, and FRAME_EMIT with T-16.
theorem test_txStep_idle : run .txStep (txAt .idle [] 0 [[0xAA, 0xBB]]) = some (txAt .waitChannelFree [sab] 0 [])
    ∧ run .txStep (txAt .idle [] 0 [List.replicate 641 0])
      = some { txAt .idle [] 0 [] with log := [.tooLong 641] } := by decide +kernel
theorem test_txStep_frame : run .txStep { txAt .frameEmit [sab] 0 [] with env := { Env.empty with modulated := [[]] } }
    = some (txAt .postamble [sab] 1 []) := by decide +kernel
-- T-12 and T-14's queue.
theorem test_txCancel : run .txCancel (txAt .drain [sab] 1 [[7]])
    = some { txAt .keyDown [sab] 1 [] with log := [.cancel .drain 1] } := by decide +kernel
-- Q-1 and Q-3.
theorem test_queries : run .mayTx State.reset = some { State.reset with replies := [.mayTx false] }
    ∧ run .pttStatus (txAt .keyedLeadIn [sab] 0 [])
      = some { txAt .keyedLeadIn [sab] 0 [] with replies := [.pttStatus true] } := by decide +kernel

-- RX-3 from the state after RX-2, with two silent blocks (FLOOR_DB = -60 by R181).
def afterRx2 (nins : List Nat) (demods : List (Option Frame)) : State :=
  { State.reset with
    cs := { smoothed := .rat (-60), quiet := 80, allowed := false }, rxBuf := List.replicate 80 0
    env := { Env.empty with nin := nins, demod := demods } }
theorem test_rxBlock_waits : run (.rxBlock (List.replicate 80 0)) { State.reset with env := { Env.empty with nin := [160] } }
    = some (afterRx2 [] []) := by decide +kernel
theorem test_rxBlock_forwards : run (.rxBlock (List.replicate 80 0)) (afterRx2 [160, 160] [some sab])
    = some { State.reset with
      cs := { smoothed := .rat (-60), quiet := 160, allowed := false }, hostOut := [0x7E, 0xAA, 0xBB, 0x7E] } := by
  decide +kernel
-- CS-9, CS-2's second block, CS-4.
theorem test_sense : sense Cfg.reference (.rat (-20)) 80 ⟨.rat (-60), 240, true⟩ = ⟨.rat (-50), 320, true⟩
    ∧ sense Cfg.reference (.rat 0) 80 ⟨.rat (-45), 320, true⟩ = ⟨.rat (-135 / 4), 320, true⟩
    ∧ sense { Cfg.reference with alpha := .rat 1 } (.rat (-40)) 80 ⟨.rat (-60), 0, false⟩ = ⟨.rat (-40), 0, false⟩ := by
  decide +kernel
-- R181's default on half scale, 10 * log10(1 / 4) = -6.02…: it lies between -6.03 and -6.02.
theorem test_meanSquare : ltReal (.rat (-603 / 100)) (meanSquareDb [0x4000, 0xC000]) = true
    ∧ ltReal (meanSquareDb [0x4000, 0xC000]) (.rat (-602 / 100)) = true := by decide +kernel

-- A-dec-14 (SINGLE L 0), A-dec-8, A-dec-6's B1, A-dec-7, A-dec-17, A-dec-12, A-dec-11, A-dec-9, each as an RX_FRAME.
theorem test_airSingle : run (.airSingle 0 rcv12) (listening State.reset)
      = some { afterSilence State.reset with hostOut := [0x7E, 0x7E] }
    ∧ run (.airSingle 11 rcv12) (listening (airAt .begin1 3 (bytesFrom 0 10)))
      = some { afterSilence (airAt .begin1 3 (bytesFrom 0 10)) with log := [.badLength .single 11] } := by decide +kernel
theorem test_airBegin : run (.airBegin 1 rcv12) (listening (airAt .frag 2 [5]))
    = some (afterSilence (airAt .begin1 1 (bytesFrom 0x20 10))) := by decide +kernel
theorem test_airFrag : run (.airFrag 2 rcv12) (listening (airAt .begin1 3 [5]))
      = some (afterSilence (airAt .frag 2 (5 :: bytesFrom 0x20 10)))
    ∧ run (.airFrag 63 rcv12) (listening (airAt .begin1 0 [5]))
      = some { afterSilence State.reset with log := [.fragLoss .frag 63 .begin1 0] } := by decide +kernel
theorem test_airEnd : run (.airEnd 3 rcv12) (listening (airAt .begin1 1 [5]))
      = some { afterSilence State.reset with hostOut := [0x7E, 5, 0x20, 0x21, 0x22, 0x7E] }
    ∧ run (.airEnd 3 rcv12) (listening (airAt .begin1 0 [5]))
      = some { afterSilence State.reset with log := [.fragLoss .end1 0 .begin1 0] } := by decide +kernel

/-! ## Witnesses: for each obligation with hypotheses, values that meet them all, one for each clause. -/

/-- Every state built here from the reset state is live. -/
theorem reset_live : live State.reset := ⟨rfl, rfl⟩

theorem witness_DecodeOfEncode : plain.tags.distinct = true ∧ (Instr.hostData 0x11).wf plain = true
    ∧ (Instr.hostEscaped 0x7D).wf escaping = true ∧ (Instr.airEnd 63 ⟨List.replicate 65 0, [0]⟩).wf plain = true
    ∧ (Instr.airSingle 0 ⟨[0, 0, 0], [0]⟩).wf plain = true := by decide +kernel

theorem witness_EncodeOfDecode : plain.tags.distinct = true ∧ decodeInput plain (.wire 0x7D) = .ok .hostEsc
    ∧ decodeInput plain (.air 0xFF [] []) = .ok (.airEnd 63 ⟨[], []⟩) := by decide +kernel

/-- TX_STEP waits at reset, so the byte behind it is taken first. -/
def queued : State := { State.reset with pending := [.event [2] .nothing, .wire 0x7E, .event [5] .nothing] }
theorem witness_StepRunsDecodedInstruction :
    queued.pending = [.event [2] .nothing] ++ .wire 0x7E :: [.event [5] .nothing]
    ∧ (∀ y ∈ [Input.event [2] .nothing], inputWaits queued y = true)
    ∧ decodeInput (decodeCtx queued) (.wire 0x7E) = .ok .hostDelim ∧ waits .hostDelim queued = false := by
  decide +kernel

def stoppedState : State := { State.reset with fatal := some .modem, pending := [.event [2] .nothing, .wire 0x41] }
theorem witness_FatalBootStopsBlock : stoppedState.booted = true ∧ stoppedState.fatal ≠ none
    ∧ ∀ x ∈ stoppedState.pending, ∃ i, decodeInput (decodeCtx stoppedState) x = .ok i ∧ ∀ a, i ≠ .boot a := by
  refine ⟨rfl, by decide, fun x hx => ?_⟩
  rcases List.mem_cons.mp hx with rfl | hx
  · exact ⟨.txStep, by decide +kernel, fun _ h => Instr.noConfusion h⟩
  · rcases List.mem_cons.mp hx with rfl | hx
    · exact ⟨.hostData 0x41, by decide +kernel, fun _ h => Instr.noConfusion h⟩
    · cases hx

theorem witness_EventsBeforeBootRefused : ({ State.reset with booted := false } : State).booted = false
    ∧ ∀ a, Instr.txStep ≠ .boot a := ⟨rfl, fun _ h => Instr.noConfusion h⟩

theorem witness_UnusedEventCodesRefused : 7 ≤ (0x7 : Nibble).toNat ∧ 7 ≤ (0xF : Nibble).toNat
    ∧ ({ State.reset with pending := [.event [0x7] .nothing] } : State).pending = .event (0x7 :: []) .nothing :: [] := by
  decide

/-- The queue is full under BLOCK; nothing is queued in IDLE. -/
theorem witness_DisabledEventsWait :
    (live (txAt .idle [] 0 [[1]]) ∧ (txAt .idle [] 0 [[1]]).cfg.txqPolicy = .block
      ∧ (txAt .idle [] 0 [[1]]).cfg.txqDepth ≤ (txAt .idle [] 0 [[1]]).tx.queue.length)
    ∧ (live State.reset ∧ State.reset.tx.phase = .idle ∧ State.reset.tx.queue = []) :=
  ⟨⟨⟨rfl, rfl⟩, by decide⟩, ⟨rfl, rfl⟩, by decide⟩

theorem witness_SomeHostEventEnabled : live (txAt .idle [] 0 [[1]]) ∧ 1 ≤ (txAt .idle [] 0 [[1]]).cfg.txqDepth :=
  ⟨⟨rfl, rfl⟩, by decide⟩

/-- B-7 and B-8: the smallest and the largest geometry. -/
theorem witness_BootSetsResetState : argsOk Args.reference = true ∧ 4 ≤ 32 / 8 ∧ 528 / 8 ≤ 66
    ∧ ({ State.reset with env := bootEnv true } : State).env = { Env.empty with
      modemOpen := true :: [], bitsPerFrame := 104 :: [], maxTx := 1000 :: [], maxRx := 400 :: []
      pttAcquire := true :: [], audioOut := true :: [], audioIn := true :: [] } := by decide +kernel

/-- B-2 to B-5: the answers of the four acquisitions, each clause once. -/
def acquire (m p o : Bool) : Env := { bootEnv p with modemOpen := [m], audioOut := [o], audioIn := [false] }
theorem witness_FailedAcquisitionIsFatal : argsOk Args.reference = true ∧ 4 ≤ 104 / 8 ∧ 104 / 8 ≤ 66
    ∧ ∀ m p o : Bool, (acquire m p o).modemOpen.head? = some m ∧ (acquire m p o).bitsPerFrame.head? = some 104
      ∧ (acquire m p o).maxTx.head? = some 1000 ∧ (acquire m p o).maxRx.head? = some 400
      ∧ (acquire m p o).pttAcquire.head? = some p ∧ (acquire m p o).audioOut.head? = some o
      ∧ (acquire m p o).audioIn.head? = some false := by decide +kernel

/-- Each condition at the first value that breaks it, with B-9 and B-10. -/
theorem witness_IllFormedConfigurationRefused :
    (({ Args.reference with hostMtu := 0 } : Args).hostMtu = 0
      ∧ ({ Args.reference with txqDepth := 0 } : Args).txqDepth = 0
      ∧ ({ Args.reference with leadInSamples := 160 } : Args).leadInSamples
          ≤ ({ Args.reference with leadInSamples := 160 } : Args).leadOutSamples
      ∧ ({ Args.reference with tags := ⟨0, 1, 2, 0⟩ } : Args).tags.distinct = false)
    ∧ argsOk Args.reference = true ∧ 24 / 8 < 4 ∧ 66 < 536 / 8
    ∧ (∀ bits ∈ [24, 536], ({ bootEnv true with bitsPerFrame := [bits] } : Env).bitsPerFrame.head? = some bits)
    ∧ (bootEnv true).modemOpen.head? = some true ∧ (bootEnv true).maxRx.head? = some 400
    ∧ ({ bootEnv true with maxTx := [0] } : Env).maxTx.head? = some 0 := by decide +kernel
theorem witness_IllFormedConfigurationRefused_energies :
    (Energy.rat (-40)).val ≤ Args.reference.lowerDb.val ∧ (Weight.rat 0).val ≤ 0 ∧ 1 < (Weight.rat (5 / 4)).val := by
  simp [Args.reference]; norm_num

theorem witness_BootForgetsThePast : State.reset ≠ txAt .drain [sab] 1 [[1]]
    ∧ State.reset.pending = (txAt .drain [sab] 1 [[1]]).pending ∧ State.reset.env = (txAt .drain [sab] 1 [[1]]).env
    ∧ State.reset.drawn = (txAt .drain [sab] 1 [[1]]).drawn := by decide +kernel

theorem witness_IdleWaitsForDelimiter : live State.reset ∧ hostReady State.reset = true ∧ State.reset.hf.inFrame = false
    ∧ (0x7D : Byte) ≠ 0x7E := ⟨reset_live, by decide +kernel⟩

/-- An empty frame; a queue with room; a full queue under DROP_OLDEST. -/
def dropFull : State := { hostAt true true [9] with
  cfg := { Cfg.reference with txqPolicy := .dropOldest }, tx := { Transmit.reset with queue := [[1, 2, 3]] } }
theorem witness_DelimiterDeliversFrame :
    (live (hostAt true true []) ∧ hostReady (hostAt true true []) = true ∧ (hostAt true true []).hf.inFrame = true
      ∧ (hostAt true true []).hf.buf = [])
    ∧ (live (hostAt true true [9]) ∧ hostReady (hostAt true true [9]) = true ∧ (hostAt true true [9]).hf.inFrame = true
      ∧ (hostAt true true [9]).hf.buf ≠ []
      ∧ (hostAt true true [9]).tx.queue.length < (hostAt true true [9]).cfg.txqDepth)
    ∧ (live dropFull ∧ hostReady dropFull = true ∧ dropFull.hf.inFrame = true ∧ dropFull.hf.buf ≠ []
      ∧ dropFull.cfg.txqDepth ≤ dropFull.tx.queue.length ∧ dropFull.tx.queue = [1, 2, 3] :: []) :=
  ⟨⟨⟨rfl, rfl⟩, by decide +kernel⟩, ⟨⟨rfl, rfl⟩, by decide +kernel⟩, ⟨rfl, rfl⟩, by decide +kernel⟩

theorem witness_EscapeByteSetsEscape : live (hostAt true false [1]) ∧ hostReady (hostAt true false [1]) = true
    ∧ (hostAt true false [1]).hf.inFrame = true ∧ (hostAt true false [1]).hf.escape = false :=
  ⟨⟨rfl, rfl⟩, by decide +kernel⟩

/-- One byte short of HOST_MTU, and at it (H-dec-14). -/
theorem witness_EscapedByteIsUnmasked :
    (live (mtu4 (hostAt true true [1, 2, 3])) ∧ hostReady (mtu4 (hostAt true true [1, 2, 3])) = true
      ∧ (mtu4 (hostAt true true [1, 2, 3])).hf.inFrame = true ∧ (mtu4 (hostAt true true [1, 2, 3])).hf.escape = true
      ∧ (0x7D : Byte) ≠ 0x7E
      ∧ (mtu4 (hostAt true true [1, 2, 3])).hf.buf.length ≠ (mtu4 (hostAt true true [1, 2, 3])).cfg.hostMtu)
    ∧ (live (mtu4 (hostAt true true [1, 2, 3, 4])) ∧ hostReady (mtu4 (hostAt true true [1, 2, 3, 4])) = true
      ∧ (mtu4 (hostAt true true [1, 2, 3, 4])).hf.inFrame = true
      ∧ (mtu4 (hostAt true true [1, 2, 3, 4])).hf.escape = true
      ∧ (mtu4 (hostAt true true [1, 2, 3, 4])).hf.buf.length = (mtu4 (hostAt true true [1, 2, 3, 4])).cfg.hostMtu) :=
  ⟨⟨⟨rfl, rfl⟩, by decide +kernel⟩, ⟨rfl, rfl⟩, by decide +kernel⟩

theorem witness_DataByteIsAppended :
    (live (mtu4 (hostAt true false [1, 2, 3])) ∧ hostReady (mtu4 (hostAt true false [1, 2, 3])) = true
      ∧ (mtu4 (hostAt true false [1, 2, 3])).hf.inFrame = true ∧ (mtu4 (hostAt true false [1, 2, 3])).hf.escape = false
      ∧ (0x7F : Byte) ≠ 0x7E ∧ (0x7F : Byte) ≠ 0x7D
      ∧ (mtu4 (hostAt true false [1, 2, 3])).hf.buf.length ≠ (mtu4 (hostAt true false [1, 2, 3])).cfg.hostMtu)
    ∧ (live (mtu4 (hostAt true false [1, 2, 3, 4])) ∧ hostReady (mtu4 (hostAt true false [1, 2, 3, 4])) = true
      ∧ (mtu4 (hostAt true false [1, 2, 3, 4])).hf.inFrame = true
      ∧ (mtu4 (hostAt true false [1, 2, 3, 4])).hf.escape = false
      ∧ (mtu4 (hostAt true false [1, 2, 3, 4])).hf.buf.length = (mtu4 (hostAt true false [1, 2, 3, 4])).cfg.hostMtu) :=
  ⟨⟨⟨rfl, rfl⟩, by decide +kernel⟩, ⟨rfl, rfl⟩, by decide +kernel⟩

/-- A packet of one byte and one of HOST_MTU bytes (H-dec-12), an idle decoder and an empty frame, room and none. -/
theorem witness_HostFramerRoundTrip :
    (live (mtu4 State.reset) ∧ hostReady (mtu4 State.reset) = true ∧ 1 ≤ [(0x7E : Byte)].length
      ∧ [(1 : Byte), 2, 3, 4].length ≤ (mtu4 State.reset).cfg.hostMtu
      ∧ (mtu4 State.reset).hf.inFrame = false
      ∧ (mtu4 State.reset).tx.queue.length < (mtu4 State.reset).cfg.txqDepth)
    ∧ (live { dropFull with hf := HostDecode.reset } ∧ hostReady { dropFull with hf := HostDecode.reset } = true
      ∧ [(0x7E : Byte)].length ≤ dropFull.cfg.hostMtu
      ∧ dropFull.cfg.txqDepth ≤ dropFull.tx.queue.length ∧ dropFull.tx.queue = [1, 2, 3] :: []) :=
  ⟨⟨⟨rfl, rfl⟩, by decide +kernel⟩, ⟨rfl, rfl⟩, by decide +kernel⟩

theorem witness_QueriesReturnRegisters : live State.reset ∧ live (txAt .keyedLeadIn [sab] 0 []) := ⟨reset_live, rfl, rfl⟩

/-- Blocks of one sample with ALPHA = 1: quiet, dead at both thresholds and busy energies (CS-4, CS-5), queued. -/
def gateAt (es : List Energy) : State := { State.reset with
  cfg := { Cfg.reference with alpha := .rat 1 }, env := { Env.empty with energy := es, nin := [160] } }
def gateAfter (e : Energy) (quiet : Nat) : State := { gateAt [] with
  cs := { smoothed := e, quiet := quiet, allowed := false }, rxBuf := [1], env := Env.empty }
theorem witness_ReceivedBlockMovesGate : live (gateAt [.rat (-30)]) ∧ (gateAt [.rat (-30)]).pttKeyed = false
    ∧ ([1] : List Sample) ≠ [] ∧ ([1] : List Sample).any (· ≠ 0) = true ∧ ([0] : List Sample).all (· = 0) = true
    ∧ (run (.rxBlock []) (gateAt [])).isSome ∧ (run (.rxBlock [0]) (gateAt [])).isSome
    ∧ run (.rxBlock [1]) (gateAt [.rat (-41)]) = some (gateAfter (.rat (-41)) 1)
    ∧ run (.rxBlock [1]) (gateAt [.rat (-40)]) = some (gateAfter (.rat (-40)) 0)
    ∧ run (.rxBlock [1]) (gateAt [.rat (-30)]) = some (gateAfter (.rat (-30)) 0)
    ∧ run (.rxBlock [1]) (gateAt [.rat (-59 / 2)]) = some (gateAfter (.rat (-59 / 2)) 0)
    ∧ (gateAt []).env.energy = [] ∧ (gateAt []).cfg.energyFn = .meanSquare
    ∧ (run (.rxBlock [0x4000]) (gateAt [])).map (fun t => (t.cs.quiet, t.cs.allowed)) = some (0, false) :=
  ⟨⟨rfl, rfl⟩, by decide +kernel⟩

/-- CS-1: three quiet updates of 80 samples. -/
def quiet3 : List (Energy × Nat) := [(.rat (-60), 80), (.rat (-60), 80), (.rat (-60), 80)]
theorem witness_PermissionAfterDwell : Cfg.reference.lowerDb.val < Cfg.reference.upperDb.val
    ∧ (ChannelEnergy.reset Cfg.reference).allowed = false ∧ quiet3 ≠ []
    ∧ ∀ k, k < quiet3.length → (senseAll Cfg.reference (quiet3.take (k + 1)) (ChannelEnergy.reset Cfg.reference)).smoothed.val
        < Cfg.reference.lowerDb.val := by
  refine ⟨by rw [← ltReal_iff]; decide +kernel, rfl, by decide, fun k hk => ?_⟩
  rw [← ltReal_iff]
  exact (by decide +kernel : ∀ k < quiet3.length, ltReal
    (senseAll Cfg.reference (quiet3.take (k + 1)) (ChannelEnergy.reset Cfg.reference)).smoothed Cfg.reference.lowerDb
      = true) k hk

/-- CS-7. -/
def highFloor : Cfg := { Cfg.reference with floorDb := .rat (-40) }
theorem witness_NoPermissionAboveFloor : argsOk highFloor.toArgs = true ∧ highFloor.lowerDb.val ≤ highFloor.floorDb.val
    ∧ ∀ u ∈ [((.rat (-40) : Energy), 80), (.rat (-40), 80)], highFloor.floorDb.val ≤ u.1.val :=
  ⟨by decide +kernel, le_rfl, fun u hu => by
    have : u = (.rat (-40), 80) := by simpa using hu
    subst this; exact le_rfl⟩

/-- Unkeyed and keyed. -/
theorem witness_AirFramesAreReceivedBlocks : live State.reset ∧ State.reset.pttKeyed = false
    ∧ live (txAt .drain [sab] 1 []) ∧ (txAt .drain [sab] 1 []).pttKeyed = true := ⟨reset_live, rfl, ⟨rfl, rfl⟩, rfl⟩

/-- A state that listens receives a frame with one silent sample. -/
def sensedOne (s : State) : State := listening (afterSilence s)
theorem oneFrame_of (s : State) (hl : live s) (hk : s.pttKeyed = false) (hc : s.cfg = Cfg.reference)
    (hs : csUpdate [0] (listening s) = some (sensedOne s)) (hb : s.rxBuf = []) :
    OneFrame (listening s) (sensedOne s) (drawNin (sensedOne s)).2 rcv12.blk where
  live := hl
  unkeyed := hk
  tags := by change s.cfg.tags.distinct = true; rw [hc]; rfl
  least := by decide
  most := by change 1 ≤ s.cfg.maxRxSamples; rw [hc]; decide
  sensed := hs
  drawn := rfl
  admitted := by change ninOk s.cfg 160 = true; rw [hc]; rfl
  waits := by change s.rxBuf.length < 160; rw [hb]; decide

/-- Reassemblies at their boundaries: none, and after a BEGIN or FRAG with each id that the tests use. -/
theorem witness_OneFrame : ∀ s ∈ [State.reset, airAt .frag 2 [5], airAt .begin1 0 [5], airAt .begin1 1 [5],
    airAt .begin1 3 [5]], OneFrame (listening s) (sensedOne s) (drawNin (sensedOne s)).2 rcv12.blk := by
  intro s hs
  have h : live s ∧ s.pttKeyed = false ∧ s.cfg = Cfg.reference ∧ csUpdate [0] (listening s) = some (sensedOne s)
      ∧ s.rxBuf = [] := by
    simp only [List.mem_cons, List.not_mem_nil, or_false] at hs
    rcases hs with rfl | rfl | rfl | rfl | rfl <;> exact ⟨⟨rfl, rfl⟩, rfl, rfl, by decide +kernel, rfl⟩
  exact oneFrame_of s h.1 h.2.1 h.2.2.1 h.2.2.2.1 h.2.2.2.2

/-- The frame sizes and lengths of the statements about one frame: `F` bytes, one less, one more and none; lengths 0, P
and P + 1. -/
theorem witness_frame_sizes : rcv12.rest.length + 1 = airF Cfg.reference ∧ (0 : Field).toNat ≤ airP Cfg.reference
    ∧ (10 : Field).toNat ≤ airP Cfg.reference ∧ airP Cfg.reference < (11 : Field).toNat
    ∧ (rest12 ++ [0]).length + 1 ≠ airF Cfg.reference ∧ (rest12.drop 1).length + 1 ≠ airF Cfg.reference
    ∧ ([] : Frame).length ≠ airF Cfg.reference := by decide +kernel
theorem witness_SingleFrameDelivers :
    OneFrame (listening State.reset) (sensedOne State.reset) (drawNin (sensedOne State.reset)).2 rcv12.blk
      ∧ rcv12.rest.length + 1 = airF (listening State.reset).cfg ∧ (10 : Field).toNat ≤ airP (listening State.reset).cfg :=
  ⟨witness_OneFrame _ (by simp), by decide +kernel⟩
theorem witness_BeginFrameRestarts :
    OneFrame (listening (airAt .frag 2 [5])) (sensedOne (airAt .frag 2 [5])) (drawNin (sensedOne (airAt .frag 2 [5]))).2
        rcv12.blk
      ∧ rcv12.rest.length + 1 = airF (listening (airAt .frag 2 [5])).cfg := ⟨witness_OneFrame _ (by simp), by decide +kernel⟩
/-- Accepted after BEGIN 3 with id 2, a loss after BEGIN 0 with any id. -/
theorem witness_FragFrameCountsDown : ∀ s ∈ [airAt .begin1 3 [5], airAt .begin1 0 [5]],
    OneFrame (listening s) (sensedOne s) (drawNin (sensedOne s)).2 rcv12.blk
      ∧ rcv12.rest.length + 1 = airF (listening s).cfg := fun s hs =>
  ⟨witness_OneFrame s (by simp only [List.mem_cons, List.not_mem_nil, or_false] at hs ⊢; tauto),
    (by decide +kernel : ∀ s ∈ [airAt .begin1 3 [5], airAt .begin1 0 [5]],
      rcv12.rest.length + 1 = airF (listening s).cfg) s hs⟩
/-- Completed after id 1, a loss after id 0; the last admitted length and the first that is not. -/
theorem witness_EndFrameCompletesOrResets : ∀ s ∈ [airAt .begin1 1 [5], airAt .begin1 0 [5]],
    OneFrame (listening s) (sensedOne s) (drawNin (sensedOne s)).2 rcv12.blk
      ∧ rcv12.rest.length + 1 = airF (listening s).cfg ∧ (10 : Field).toNat ≤ airP (listening s).cfg := fun s hs =>
  ⟨witness_OneFrame s (by simp only [List.mem_cons, List.not_mem_nil, or_false] at hs ⊢; tauto),
    (by decide +kernel : ∀ s ∈ [airAt .begin1 1 [5], airAt .begin1 0 [5]],
      rcv12.rest.length + 1 = airF (listening s).cfg ∧ (10 : Field).toNat ≤ airP (listening s).cfg) s hs⟩
theorem witness_LengthAbovePayloadDropped :
    OneFrame (listening (airAt .begin1 1 [5])) (sensedOne (airAt .begin1 1 [5]))
        (drawNin (sensedOne (airAt .begin1 1 [5]))).2 rcv12.blk
      ∧ rcv12.rest.length + 1 = airF (listening (airAt .begin1 1 [5])).cfg
      ∧ airP (listening (airAt .begin1 1 [5])).cfg < (11 : Field).toNat := ⟨witness_OneFrame _ (by simp), by decide +kernel⟩
theorem witness_WrongFrameSizeDropped :
    OneFrame (listening State.reset) (sensedOne State.reset) (drawNin (sensedOne State.reset)).2 [0]
      ∧ ([] : Frame).length ≠ airF (listening State.reset).cfg
      ∧ (rest12.drop 1).length + 1 ≠ airF (listening State.reset).cfg := ⟨witness_OneFrame _ (by simp), by decide +kernel⟩
theorem witness_CrcIsNotChecked : rest12.length + 1 = airF State.reset.cfg
    ∧ (rest12.take 10 ++ [0, 0]).length + 1 = airF State.reset.cfg
    ∧ rest12.take (airP State.reset.cfg) = (rest12.take 10 ++ [0, 0]).take (airP State.reset.cfg)
    ∧ rest12 ≠ rest12.take 10 ++ [0, 0] := by decide +kernel

/-- A-enc-8 and A-enc-9, A-enc-3 and A-enc-4: the lengths 0, 10, 11, 640 and 641 at `P = 10`. -/
theorem witness_AirEncodeFrames : cfgOk Cfg.reference = true ∧ 64 * airP Cfg.reference < (bytesFrom 0 641).length
    ∧ (bytesFrom 0 640).length ≤ 64 * airP Cfg.reference ∧ (bytesFrom 1 10).length ≤ airP Cfg.reference
    ∧ ([] : Packet).length ≤ airP Cfg.reference ∧ airP Cfg.reference < (bytesFrom 1 11).length := by decide +kernel
theorem witness_SingleFrameRoundTrip : cfgOk State.reset.cfg = true
    ∧ (bytesFrom 1 10).length ≤ airP State.reset.cfg := by decide +kernel
theorem witness_MultiFrameRoundTrip : cfgOk State.reset.cfg = true ∧ airP State.reset.cfg < (bytesFrom 1 11).length
    ∧ (bytesFrom 0 640).length ≤ 64 * airP State.reset.cfg := by decide +kernel
/-- L1-5: the first and the last FRAG of g0 to g3, at `j = 1` and `j = 2`; the BEGIN, with nothing in progress; the END,
also of a packet of two frames. -/
theorem witness_LostFrameDetected : cfgOk State.reset.cfg = true ∧ airP State.reset.cfg < (bytesFrom 0 35).length
    ∧ airEncode State.reset.cfg (bytesFrom 0 35) = some g ∧ 1 + 1 < g.length ∧ 2 + 1 < g.length
    ∧ State.reset.af.lastTag = .single ∧ State.reset.af.lastId = 0
    ∧ (airEncode State.reset.cfg (bytesFrom 1 11)).map List.length = some 2 := by decide +kernel

/-- T-4b and T-4: 640 and 641 bytes. -/
theorem witness_IdleTakesOldestPacket : live (txAt .idle [] 0 [bytesFrom 0 640])
    ∧ (txAt .idle [] 0 [bytesFrom 0 640]).tx.phase = .idle
    ∧ (txAt .idle [] 0 [bytesFrom 0 640]).tx.queue = bytesFrom 0 640 :: []
    ∧ (bytesFrom 0 640).length ≤ 64 * airP (txAt .idle [] 0 [bytesFrom 0 640]).cfg
    ∧ live (txAt .idle [] 0 [bytesFrom 0 641])
    ∧ 64 * airP (txAt .idle [] 0 [bytesFrom 0 641]).cfg < (bytesFrom 0 641).length :=
  ⟨⟨rfl, rfl⟩, by decide +kernel, by decide +kernel, by decide +kernel, ⟨rfl, rfl⟩, by decide +kernel⟩

/-- T-5, T-6 and T-6b: no limit; two polls done of three and of four. -/
def pollAt (limit : Option Nat) : State := { txAt .waitChannelFree [sab] 0 [] with
  cfg := { Cfg.reference with channelWaitLimit := limit }
  tx := { phase := .waitChannelFree, frames := [sab], index := 0, polls := 2, queue := [] }
  cs := { smoothed := .rat (-30), quiet := 0, allowed := false } }
theorem witness_FailedPollCounts : (∀ limit ∈ [none, some 3, some 4], (pollAt limit).tx.phase = .waitChannelFree
      ∧ (pollAt limit).cs.allowed = false ∧ (pollAt limit).cfg.channelWaitLimit = limit)
    ∧ live (pollAt none) ∧ live (pollAt (some 3)) ∧ 3 ≤ (pollAt (some 3)).tx.polls + 1
    ∧ live (pollAt (some 4)) ∧ (pollAt (some 4)).tx.polls + 1 < 4 :=
  ⟨by decide +kernel, ⟨rfl, rfl⟩, ⟨rfl, rfl⟩, by decide, ⟨rfl, rfl⟩, by decide⟩
theorem witness_PermittedPollKeysUp : live (txAt .waitChannelFree [sab] 0 [])
    ∧ (txAt .waitChannelFree [sab] 0 []).tx.phase = .waitChannelFree
    ∧ (txAt .waitChannelFree [sab] 0 []).cs.allowed = true := ⟨⟨rfl, rfl⟩, rfl, rfl⟩
theorem witness_LeadsWriteSilence : live (txAt .keyedLeadIn [sab] 0 []) ∧ live (txAt .leadOut [sab] 1 [])
    ∧ (txAt .keyedLeadIn [sab] 0 []).tx.phase = .keyedLeadIn ∧ (txAt .leadOut [sab] 1 []).tx.phase = .leadOut :=
  ⟨⟨rfl, rfl⟩, ⟨rfl, rfl⟩, rfl, rfl⟩
theorem witness_ModemAmblesWritten : live (txAt .preamble [sab] 0 []) ∧ live (txAt .postamble [sab] 1 [])
    ∧ (txAt .preamble [sab] 0 []).tx.phase = .preamble ∧ (txAt .postamble [sab] 1 []).tx.phase = .postamble :=
  ⟨⟨rfl, rfl⟩, ⟨rfl, rfl⟩, rfl, rfl⟩

/-- The first and the last frame of two, a write that succeeds and one that fails. -/
def emitAt (k : Nat) (ms : List (List Sample)) (ws : List Bool) : State :=
  { txAt .frameEmit [sab, sab] k [] with env := { Env.empty with modulated := ms, write := ws } }
theorem witness_FrameEmitWritesNextFrame : live (emitAt 0 [[7]] [true])
    ∧ ∀ k ∈ [0, 1], ∀ ok : Bool, (emitAt k [[7]] [ok]).tx.phase = .frameEmit
      ∧ (emitAt k [[7]] [ok]).tx.frames[(emitAt k [[7]] [ok]).tx.index]? = some sab
      ∧ drawMod sab (emitAt k [[7]] [ok]) = ([7], emitAt k [] [ok])
      ∧ [(7 : Sample)].length ≤ (emitAt k [[7]] [ok]).cfg.maxTxSamples
      ∧ drawWrite (emitAt k [] [ok]) = (ok, emitAt k [] []) := ⟨⟨rfl, rfl⟩, by decide +kernel⟩
theorem witness_DrainPolls : live (txAt .drain [sab] 1 []) ∧ (txAt .drain [sab] 1 []).tx.phase = .drain :=
  ⟨⟨rfl, rfl⟩, rfl⟩
theorem witness_KeyDownUnkeys : live (txAt .keyDown [sab] 1 []) ∧ (txAt .keyDown [sab] 1 []).tx.phase = .keyDown :=
  ⟨⟨rfl, rfl⟩, rfl⟩
theorem witness_CancelDropsPackets : live (txAt .idle [] 0 [[1]]) ∧ live (txAt .keyedLeadIn [sab] 0 [[1]]) :=
  ⟨⟨rfl, rfl⟩, rfl, rfl⟩

/-- T-1, with `drained()` true at the second poll. -/
def packetAt : State := { txAt .idle [] 0 [[0xAA, 0xBB]] with env := { Env.empty with
  pre := [[1, 2]], post := [[]], modulated := [[7]], write := [true, true, true, true, true]
  drained := [false, true] } }
theorem witness_PacketTransmissionTrace : live packetAt ∧ packetAt.tx.phase = .idle
    ∧ packetAt.tx.queue = [0xAA, 0xBB] :: [] ∧ airEncode packetAt.cfg [0xAA, 0xBB] = some [sab]
    ∧ packetAt.cs.allowed = true ∧ packetAt.env.pre.head? = some [1, 2] ∧ packetAt.env.post.head? = some []
    ∧ packetAt.env.modulated = [[7]] ++ [] ∧ [[(7 : Sample)]].length = [sab].length
    ∧ (∀ m ∈ [[(7 : Sample)]], m.length ≤ packetAt.cfg.maxTxSamples) ∧ packetAt.env.drained = List.replicate 1 false ++ true :: []
    ∧ [sab].length + 4 ≤ packetAt.env.write.length ∧ ∀ b ∈ packetAt.env.write, b = true := by
  refine ⟨⟨rfl, rfl⟩, ?_⟩
  decide +kernel

/-- A key-up, and an unkeying by KEY_DOWN; a BOOT while keyed. -/
theorem witness_PttChangesOnlyAsAllowed :
    ((run .txStep (txAt .waitChannelFree [sab] 0 [])).map (·.pttKeyed) = some true
      ∧ (txAt .waitChannelFree [sab] 0 []).pttKeyed = false)
    ∧ ((run .txStep (txAt .keyDown [sab] 1 [])).map (·.pttKeyed) = some false
      ∧ (txAt .keyDown [sab] 1 []).pttKeyed = true)
    ∧ (run (.boot Args.reference) { txAt .drain [sab] 1 [] with env := bootEnv true }).map (·.pttKeyed)
      = some false := by decide +kernel

theorem witness_KeyedBlockDiscarded : live (txAt .drain [sab] 1 []) ∧ (txAt .drain [sab] 1 []).pttKeyed = true :=
  ⟨⟨rfl, rfl⟩, rfl⟩
/-- NIN at both ends of its range, an energy at the floor. -/
def ninEnv : Env := { Env.empty with nin := [1, 400], energy := [.rat (-60)] }
theorem witness_RxBlockCompletes : live { State.reset with env := ninEnv } ∧ answersOk Cfg.reference ninEnv
    ∧ 1 ≤ Cfg.reference.maxRxSamples :=
  ⟨⟨rfl, rfl⟩, ⟨by decide +kernel, fun x hx => by
    have : x = .rat (-60) := by simpa [ninEnv] using hx
    subst this; exact le_rfl⟩, by decide⟩
/-- 80 samples and NIN = 81. -/
def senseOnly (nins : List Nat) (demods : List (Option Frame)) : State := { State.reset with
  cs := { smoothed := .rat (-60), quiet := 80, allowed := false }, env := { Env.empty with nin := nins, demod := demods } }
theorem witness_ShortBufferWaits : live { State.reset with env := { Env.empty with nin := [81] } }
    ∧ csUpdate (List.replicate 80 0) { State.reset with env := { Env.empty with nin := [81] } } = some (senseOnly [81] [])
    ∧ drawNin (senseOnly [81] []) = (81, senseOnly [] []) ∧ 81 ≤ State.reset.cfg.maxRxSamples
    ∧ State.reset.rxBuf.length + (List.replicate 80 (0 : Sample)).length < 81 := ⟨⟨rfl, rfl⟩, by decide +kernel⟩
/-- 80 samples, NIN = 80 (all of them) and 1 (the first pass of several), with a frame and without. -/
theorem witness_ChunkDemodulatedThenRest : live { State.reset with env := { Env.empty with nin := [80, 1], demod := [none] } }
    ∧ ∀ n ∈ [1, 80], ∀ r ∈ [none, some sab],
      csUpdate (List.replicate 80 0) { State.reset with env := { Env.empty with nin := [n, 1], demod := [r] } }
        = some (senseOnly [n, 1] [r])
      ∧ drawNin (senseOnly [n, 1] [r]) = (n, senseOnly [1] [r]) ∧ 1 ≤ n ∧ n ≤ State.reset.cfg.maxRxSamples
      ∧ n ≤ (State.reset.rxBuf ++ List.replicate 80 (0 : Sample)).length
      ∧ (drawDemod ((State.reset.rxBuf ++ List.replicate 80 0).take n)
          { senseOnly [1] [r] with rxBuf := (State.reset.rxBuf ++ List.replicate 80 0).drop n }).1 = r :=
  ⟨⟨rfl, rfl⟩, by decide +kernel⟩

/-- RX-3 and a HOST_BYTE each answer a next state. -/
theorem witness_HostOutputIsWholeFrames : (run (.rxBlock (List.replicate 80 0)) (afterRx2 [160, 160] [some sab])).isSome
    ∧ ∀ a, Instr.rxBlock (List.replicate 80 0) ≠ .boot a := ⟨by decide +kernel, fun _ h => Instr.noConfusion h⟩
theorem witness_ReceivePathFrame : (∀ k : Fin 4, (run (airInstr ([.single, .begin1, .frag, .end1][k]) 2 rest12 [0])
      (listening State.reset)).isSome)
    ∧ (run (.rxBlock (List.replicate 80 0)) (afterRx2 [160, 160] [some sab])).isSome := by decide +kernel
theorem witness_HostAgentFrame : (run .hostDelim (hostAt true false [1])).isSome
    ∧ (run .hostEsc (hostAt true false [1])).isSome ∧ (run (.hostByte 0x11) (hostAt true false [1])).isSome
    ∧ (run (.hostEscaped 0x5E) (hostAt true true [1])).isSome ∧ (run (.hostData 0x11) (hostAt true false [1])).isSome
    ∧ (run .txStep (txAt .idle [] 0 [[1]])).isSome ∧ (run .txCancel (txAt .idle [] 0 [[1]])).isSome := by decide +kernel
theorem witness_RecordsAreAppendOnly : (run .txCancel (txAt .idle [] 0 [[1]])).isSome ∧ State.reset.fatal = none
    ∧ ∀ a, Instr.txCancel ≠ .boot a := ⟨by decide +kernel, rfl, fun _ h => Instr.noConfusion h⟩

/-- A state with the invariant in the middle of a packet, whose next step is TX_STEP. -/
def midPacket : State := { txAt .frameEmit [sab] 0 [[1, 2]] with
  pending := [.event [2] .nothing], env := { Env.empty with modulated := [[]] }, trace := [.ptt false, .ptt true] }
theorem witness_Inv : Inv midPacket := by
  refine ⟨rfl, rfl, fun h => absurd rfl h, fun _ =>
    ⟨by decide +kernel, ⟨by decide, fun _ => ⟨rfl, rfl⟩⟩, le_rfl, ⟨by decide, fun _ => ⟨rfl, rfl⟩, ?_⟩,
      ⟨?_, by decide, by decide +kernel, by decide, by decide, ?_⟩, by decide, rfl⟩⟩
  · intro h; cases h
  · change 0 < 1; decide
  · intro m h; cases h
/-- Where one step leads. -/
def stepped (s : State) : Option Phase :=
  match step s with
  | .next t => some t.tx.phase
  | _ => none
theorem witness_StepKeepsInvariant : Inv midPacket ∧ stepped midPacket = some .postamble :=
  ⟨witness_Inv, by decide +kernel⟩
theorem witness_NoFaultUnderInvariant : Inv midPacket := witness_Inv
theorem witness_PttKeyedExactlyInKeyedPhases : midPacket.pttKeyed = midPacket.tx.phase.keyed
    ∧ stepped midPacket = some .postamble := by decide +kernel

end Sys2Proof.Tests
end

/-! SUPPORT. What BOOT checks and draws (70_reset_and_hazards.md R371, R372), and the configurations without a run. -/

namespace Sys2Proof.Machine

/-! The two checks as the conditions of the spec. -/

/-- The conditions of R8, R10, R11 and R384 on the arguments, over the reals that they denote. -/
theorem argsOk_iff (a : Args) : argsOk a = true ↔
    1 ≤ a.hostMtu ∧ 1 ≤ a.txqDepth ∧ a.lowerDb.val < a.upperDb.val ∧ 0 < a.alpha.val ∧ a.alpha.val ≤ 1
      ∧ a.leadOutSamples < a.leadInSamples ∧ a.tags.distinct = true := by
  simp [argsOk, ltReal_eq_false_iff, and_assoc]

/-- The arguments fail the check exactly where one of those conditions is broken. -/
theorem argsOk_eq_false_iff (a : Args) : argsOk a = false ↔
    a.hostMtu = 0 ∨ a.txqDepth = 0 ∨ a.upperDb.val ≤ a.lowerDb.val ∨ a.alpha.val ≤ 0 ∨ 1 < a.alpha.val
      ∨ a.leadInSamples ≤ a.leadOutSamples ∨ a.tags.distinct = false := by
  rw [← Bool.not_eq_true, argsOk_iff]
  simp only [not_and_or, not_le, not_lt, Nat.lt_one_iff, Bool.not_eq_true]

/-- The conditions of R8 and R372 on the modem's answers; `4 ≤ F ≤ 66` is `1 ≤ P ≤ 63`. -/
theorem geometryOk_iff (c : Cfg) : geometryOk c = true ↔
    4 ≤ airF c ∧ airF c ≤ 66 ∧ 1 ≤ c.maxTxSamples ∧ 1 ≤ c.maxRxSamples := by
  simp [geometryOk, and_assoc]

/-- The geometry fails the check exactly where one of those conditions is broken. -/
theorem geometryOk_eq_false_iff (c : Cfg) : geometryOk c = false ↔
    airF c < 4 ∨ 66 < airF c ∨ c.maxTxSamples = 0 ∨ c.maxRxSamples = 0 := by
  rw [← Bool.not_eq_true, geometryOk_iff]
  simp only [not_and_or, not_le, Nat.lt_one_iff]

/-! A draw answers the oldest queued answer of its kind, and leaves the queues of the other kinds. -/

theorem draw_of_head? {α : Type} {queued : List α} {a : α} (free : Nat → α) (n : Nat) (h : queued.head? = some a) :
    (draw queued free n).1 = a := by
  obtain ⟨rest, rfl⟩ := List.head?_eq_some_iff.mp h
  rfl

section
variable {s : State}

theorem drawModemOpen_of_head? {ok : Bool} (h : s.env.modemOpen.head? = some ok) : (drawModemOpen s).1 = ok :=
  draw_of_head? _ _ h

theorem drawBitsPerFrame_of_head? {n : Nat} (h : s.env.bitsPerFrame.head? = some n) : (drawBitsPerFrame s).1 = n :=
  draw_of_head? _ _ h

theorem drawMaxTx_of_head? {n : Nat} (h : s.env.maxTx.head? = some n) : (drawMaxTx s).1 = n :=
  draw_of_head? _ _ h

theorem drawMaxRx_of_head? {n : Nat} (h : s.env.maxRx.head? = some n) : (drawMaxRx s).1 = n :=
  draw_of_head? _ _ h

end

section
variable (s : State)

@[simp] theorem drawModemOpen_bitsPerFrame : (drawModemOpen s).2.env.bitsPerFrame = s.env.bitsPerFrame := rfl
@[simp] theorem drawModemOpen_maxTx : (drawModemOpen s).2.env.maxTx = s.env.maxTx := rfl
@[simp] theorem drawModemOpen_maxRx : (drawModemOpen s).2.env.maxRx = s.env.maxRx := rfl
@[simp] theorem drawBitsPerFrame_maxTx : (drawBitsPerFrame s).2.env.maxTx = s.env.maxTx := rfl
@[simp] theorem drawBitsPerFrame_maxRx : (drawBitsPerFrame s).2.env.maxRx = s.env.maxRx := rfl
@[simp] theorem drawMaxTx_maxRx : (drawMaxTx s).2.env.maxRx = s.env.maxRx := rfl

end

/-! The branches of BOOT. -/

@[simp] theorem bootState_env (a : Args) (s : State) : (bootState a s).env = s.env := rfl

theorem exec_boot (a : Args) (s : State) : exec (.boot a) s = execBoot a s := rfl

theorem exec_boot_of_argsOk {a : Args} (s : State) (h : argsOk a = true) :
    exec (.boot a) s = bootModem (bootState a s) := by
  rw [exec_boot, execBoot, if_pos h]

theorem exec_boot_of_argsOk_eq_false {a : Args} (s : State) (h : argsOk a = false) :
    exec (.boot a) s = .refused .configuration := by
  rw [exec_boot, execBoot, h, if_neg Bool.false_ne_true]

variable {s : State}

/-- The configuration takes the three queued answers of the modem. -/
theorem bootGeometry_cfg_of_head? {bits mtx mrx : Nat} (hbits : s.env.bitsPerFrame.head? = some bits)
    (hmtx : s.env.maxTx.head? = some mtx) (hmrx : s.env.maxRx.head? = some mrx) :
    (bootGeometry s).cfg = { s.cfg with bitsPerFrame := bits, maxTxSamples := mtx, maxRxSamples := mrx } := by
  have hb := drawBitsPerFrame_of_head? hbits
  have ht : (drawMaxTx (drawBitsPerFrame s).2).1 = mtx := drawMaxTx_of_head? (by simpa using hmtx)
  have hr : (drawMaxRx (drawMaxTx (drawBitsPerFrame s).2).2).1 = mrx := drawMaxRx_of_head? (by simpa using hmrx)
  simp [bootGeometry, hb, ht, hr]

/-- An open modem whose geometry fails the check of R372 ends the boot as a refusal. -/
theorem bootModem_of_badGeometry (hopen : s.env.modemOpen.head? = some true)
    (hgeo : geometryOk (bootGeometry (drawModemOpen s).2).cfg = false) : bootModem s = .refused .geometry := by
  simp [bootModem, drawModemOpen_of_head? hopen, hgeo]

/-- Settles O12: the first part is the check of the arguments, which comes before every draw; in the second the modem's
queued answers reach the configuration, and the check of the geometry fails on them. -/
theorem illFormedConfigurationRefused : Obligations.IllFormedConfigurationRefused := by
  intro a s
  refine ⟨fun hbroken => exec_boot_of_argsOk_eq_false s ((argsOk_eq_false_iff a).mpr hbroken), ?_⟩
  intro bits mtx mrx hargs hopen hbits hmtx hmrx hbad
  have hcfg := bootGeometry_cfg_of_head? (s := (drawModemOpen (bootState a s)).2) hbits hmtx hmrx
  have hgeo : geometryOk (bootGeometry (drawModemOpen (bootState a s)).2).cfg = false := by
    rw [hcfg, geometryOk_eq_false_iff]
    exact hbad
  rw [exec_boot_of_argsOk s hargs]
  exact bootModem_of_badGeometry hopen hgeo

end Sys2Proof.Machine

/-! SUPPORT. What one TX_STEP can do, said once (44_transmit_sequencer.md R260 to R273). -/

namespace Sys2Proof.Machine

/-- The phase that follows a write or a poll that went well (R266, R267, R269 to R271); FRAME_EMIT has its own rule
(R268), and the others write nothing. -/
def Phase.afterOk : Phase → Option Phase
  | .keyedLeadIn => some .preamble
  | .preamble => some .frameEmit
  | .postamble => some .leadOut
  | .leadOut => some .drain
  | .drain => some .keyDown
  | .idle | .waitChannelFree | .frameEmit | .keyDown => none

/-- `u` is `s` after answers were drawn and one `emit` was made, which for an empty list writes nothing (R260). -/
def Wrote (s u : State) : Prop :=
  ∃ k samples env drawn, u = { s with trace := s.trace ++ written k samples, env := env, drawn := drawn }

/-- The moves of the transmit machine, one constructor for each way in which an action of R262 to R273 can end. -/
inductive TxMove (s : State) : State → Prop
  | nothing (hp : s.tx.phase = .idle) : TxMove s s
  | tooLong {p queue} (hp : s.tx.phase = .idle) (hq : s.tx.queue = p :: queue) :
      TxMove s (({ s with tx := { s.tx with queue := queue } } : State).raise (.tooLong p.length))
  | take {p queue frames} (hp : s.tx.phase = .idle) (hq : s.tx.queue = p :: queue)
      (hf : airEncode s.cfg p = some frames) :
      TxMove s { s with tx :=
        { phase := .waitChannelFree, frames := frames, index := 0, polls := 0, queue := queue } }
  | polled (hp : s.tx.phase = .waitChannelFree) (hm : ∀ m, s.cfg.channelWaitLimit = some m → s.tx.polls + 1 < m) :
      TxMove s { s with tx := { s.tx with polls := s.tx.polls + 1 } }
  | gaveUp (m : Nat) (hp : s.tx.phase = .waitChannelFree) : TxMove s ((s.raise (.waitLimit m)).clearPacket .idle)
  | keyedUp (hp : s.tx.phase = .waitChannelFree) (ha : s.cs.allowed = true) :
      TxMove s ((s.pttSet true).setPhase .keyedLeadIn)
  | moved {u next} (hu : Wrote s u) (hn : s.tx.phase.afterOk = some next) : TxMove s (u.setPhase next)
  | frameSent {u} (hu : Wrote s u) (hp : s.tx.phase = .frameEmit) (hi : s.tx.index < s.tx.frames.length) :
      TxMove s (frameDone u)
  | failed {u} (hu : Wrote s u) (hk : s.tx.phase.keyed = true) : TxMove s (audioFailed u)
  | notDrained {u} (hu : Wrote s u) : TxMove s u
  | keyedDown (hp : s.tx.phase = .keyDown) : TxMove s ((s.pttSet false).clearPacket .idle)

section
variable {s t u : State}

/-- A write follows a draw. -/
theorem wrote_emit_of_drawn {env : Env} {drawn : Nat} (k : AudioKind) (samples : List Sample)
    (hu : u = { s with env := env, drawn := drawn }) : Wrote s (emit k samples u).2 :=
  ⟨k, samples, (emit k samples u).2.env, (emit k samples u).2.drawn, by subst hu; exact emit_frame k samples⟩

/-- A draw alone is an empty write. -/
theorem wrote_of_drawn {env : Env} {drawn : Nat} (hu : u = { s with env := env, drawn := drawn }) : Wrote s u :=
  ⟨.leadIn, [], env, drawn, by simp [hu, written]⟩

/-- A write of an amble or of silence goes on or fails (R260, R273). -/
theorem emitThen_cases (k : AudioKind) (samples : List Sample) (next : Phase) (s : State) :
    emitThen k samples next s = (emit k samples s).2.setPhase next
      ∨ emitThen k samples next s = audioFailed (emit k samples s).2 := by
  unfold emitThen
  split
  · rename_i h; exact .inl (by rw [h])
  · rename_i h; exact .inr (by rw [h])

/-- A write or a poll leads from a keyed phase to a keyed one (R48). -/
theorem keyed_of_afterOk {p next : Phase} (h : p.afterOk = some next) : p.keyed = true ∧ next.keyed = true := by
  cases p <;> cases h <;> exact ⟨rfl, rfl⟩

/-- A draw and a write of an amble or of silence are one move. -/
theorem emitThen_move {env : Env} {drawn : Nat} {next : Phase} (k : AudioKind) (samples : List Sample)
    (hu : u = { s with env := env, drawn := drawn }) (hn : s.tx.phase.afterOk = some next) :
    TxMove s (emitThen k samples next u) := by
  have hw := wrote_emit_of_drawn k samples hu
  rcases emitThen_cases k samples next u with h | h
  · rw [h]; exact .moved hw hn
  · rw [h]; exact .failed hw (keyed_of_afterOk hn).1

theorem txIdle_move (hp : s.tx.phase = .idle) (h : txIdle s = .next t) : TxMove s t := by
  unfold txIdle at h
  split at h
  · injection h with h; subst h; exact .nothing hp
  · rename_i p queue hq
    dsimp only at h
    split at h
    · injection h with h; subst h; exact .tooLong hp hq
    · rename_i frames hf
      injection h with h; subst h; exact .take hp hq hf

theorem pollFailed_move (hp : s.tx.phase = .waitChannelFree) : TxMove s (pollFailed s) := by
  unfold pollFailed
  dsimp only
  split
  · rename_i hm
    exact .polled hp fun m h => by cases hm.symm.trans h
  · rename_i m hm
    split
    · exact .gaveUp m hp
    · rename_i hlt
      refine .polled hp fun m' h => ?_
      obtain rfl : m = m' := Option.some.inj (hm.symm.trans h)
      exact Nat.lt_of_not_le hlt

theorem txWait_move (hp : s.tx.phase = .waitChannelFree) (h : txWait s = .next t) : TxMove s t := by
  unfold txWait at h
  split at h
  · rename_i ha
    injection h with h; subst h; exact .keyedUp hp ha
  · injection h with h; subst h; exact pollFailed_move hp

theorem txFrame_move (hp : s.tx.phase = .frameEmit) (h : txFrame s = .next t) : TxMove s t := by
  unfold txFrame at h
  split at h
  · cases h
  · rename_i f hf
    have hi : s.tx.index < s.tx.frames.length := (List.getElem?_eq_some_iff.mp hf).1
    have hw := wrote_emit_of_drawn .frame (drawMod f s).1 (drawMod_frame s f)
    dsimp only at h
    split at h
    · cases h
    · split at h
      · rename_i he
        rw [he] at hw
        injection h with h; subst h; exact .frameSent hw hp hi
      · rename_i he
        rw [he] at hw
        injection h with h; subst h; exact .failed hw (by rw [hp]; rfl)

/-- The poll of DRAIN by its draw (R271). -/
theorem txDrain_eq (s : State) : txDrain s
    = .next (if (drawDrained s).1 then (drawDrained s).2.setPhase .keyDown else (drawDrained s).2) := rfl

theorem txDrain_move (hp : s.tx.phase = .drain) (h : txDrain s = .next t) : TxMove s t := by
  have hw : Wrote s (drawDrained s).2 := wrote_of_drawn (drawDrained_frame s)
  rw [txDrain_eq] at h
  injection h with h
  subst h
  split
  · exact .moved hw (by rw [hp]; rfl)
  · exact .notDrained hw

/-- Every next state of TX_STEP is one of the moves (R260). -/
theorem txPhase_move (h : txPhase s = .next t) : TxMove s t := by
  unfold txPhase at h
  split at h
  case h_1 hp => exact txIdle_move hp h
  case h_2 hp => exact txWait_move hp h
  case h_3 hp =>
    injection h with h; subst h
    exact emitThen_move _ _ rfl (by rw [hp]; rfl)
  case h_4 hp =>
    injection h with h; subst h
    exact emitThen_move _ _ (drawPre_frame s) (by rw [hp]; rfl)
  case h_5 hp => exact txFrame_move hp h
  case h_6 hp =>
    injection h with h; subst h
    exact emitThen_move _ _ (drawPost_frame s) (by rw [hp]; rfl)
  case h_7 hp =>
    injection h with h; subst h
    exact emitThen_move _ _ rfl (by rw [hp]; rfl)
  case h_8 hp => exact txDrain_move hp h
  case h_9 hp => injection h with h; subst h; exact .keyedDown hp

/-! What the moves keep. -/

/-- The last frame moves the phase, any other only the index (R268). -/
theorem frameDone_eq (s : State) : frameDone s = { s with tx := { s.tx with
    index := s.tx.index + 1
    phase := if s.tx.index + 1 = s.tx.frames.length then .postamble else s.tx.phase } } := by
  unfold frameDone
  simp only
  split <;> rfl

/-- A move writes the transmit machine, the PTT, the two records it appends to, and takes answers. -/
theorem TxMove.frame (h : TxMove s t) : t = { s with
    tx := t.tx, pttKeyed := t.pttKeyed, trace := t.trace, log := t.log, env := t.env, drawn := t.drawn } := by
  cases h with
  | moved hu hn => obtain ⟨k, samples, env, drawn, rfl⟩ := hu; rfl
  | frameSent hu hp hi => obtain ⟨k, samples, env, drawn, rfl⟩ := hu; rw [frameDone_eq]
  | failed hu hk => obtain ⟨k, samples, env, drawn, rfl⟩ := hu; rfl
  | notDrained hu => obtain ⟨k, samples, env, drawn, rfl⟩ := hu; rfl
  | _ => rfl

/-- A move raises at most one record (R344). -/
theorem TxMove.log (h : TxMove s t) : ∃ l, t.log = s.log ++ l ∧ l.length ≤ 1 := by
  cases h with
  | tooLong hp hq => exact ⟨[_], rfl, le_rfl⟩
  | gaveUp m hp => exact ⟨[_], rfl, le_rfl⟩
  | moved hu hn => obtain ⟨k, samples, env, drawn, rfl⟩ := hu; exact ⟨[], by simp⟩
  | frameSent hu hp hi => obtain ⟨k, samples, env, drawn, rfl⟩ := hu; exact ⟨[], by simp [frameDone_eq]⟩
  | failed hu hk => obtain ⟨k, samples, env, drawn, rfl⟩ := hu; exact ⟨[_], rfl, le_rfl⟩
  | notDrained hu => obtain ⟨k, samples, env, drawn, rfl⟩ := hu; exact ⟨[], by simp⟩
  | _ => exact ⟨[], by simp⟩

end

end Sys2Proof.Machine

/-! SUPPORT. What an RX_BLOCK that is processed can do, said once (45_receive_sequencer.md R302 to R305, R123). -/

namespace Sys2Proof.Machine

/-- The effect of a processed block: what it writes, what it leaves in the buffer (R49, R303, R304), the packets it
forwards (R305), the energy it is sensed with (R181, R183) and the invariants of R42. -/
structure RxEffect (blk : List Sample) (s t : State) : Prop where
  frame : t = { s with
    cs := t.cs, af := t.af, rxBuf := t.rxBuf, hostOut := t.hostOut, log := t.log, env := t.env, drawn := t.drawn }
  newest : t.rxBuf <:+ s.rxBuf ++ blk
  short : t.rxBuf.length < s.cfg.maxRxSamples
  log : s.log <+: t.log
  hostOut : ∃ packets : List Packet, t.hostOut = s.hostOut ++ packets.flatMap hostEncode
  energy : t.cs = s.cs ∨ ∃ e n, s.cfg.floorDb.val ≤ e.val ∧ t.cs = sense s.cfg e n s.cs
  reassembly : reassemblyOk s.cfg s.af → reassemblyOk s.cfg t.af

section
variable {s t : State}

/-- The reset reassembly has nothing in progress (R228). -/
theorem reassemblyOk_reset (c : Cfg) : reassemblyOk c Reassembly.reset :=
  ⟨by decide, fun _ => ⟨rfl, rfl⟩, fun h => by cases h⟩

/-- A fragment id keeps its value in the register (R41). -/
theorem toNat_zeroExtend_field (fid : Field) : (fid.zeroExtend 8).toNat = fid.toNat := by
  have := fid.isLt
  simp only [BitVec.truncate_eq_setWidth, BitVec.toNat_setWidth]
  omega

/-- A frame of the right size has a whole payload (R110). -/
theorem length_take_airP {c : Cfg} {rest : List Byte} (h : rest.length + 1 = airF c) :
    (rest.take (airP c)).length = airP c := by
  rw [List.length_take, airP]; omega

theorem airBeginOp_reassemblyOk {fid : Field} {rest : List Byte} (hsize : rest.length + 1 = airF s.cfg) :
    reassemblyOk s.cfg (airBeginOp fid rest s).1.af := by
  refine ⟨by simp [airBeginOp], fun h => (by cases h), fun _ => ⟨fid.toNat, ?_, ?_, ?_⟩⟩
  · have := fid.isLt; omega
  · exact (toNat_zeroExtend_field fid).le
  · simp only [airBeginOp, toNat_zeroExtend_field, length_take_airP hsize, Nat.sub_self, Nat.zero_add, Nat.mul_one]

/-- A FRAG that continues the countdown adds one payload (R224). -/
theorem airFragOp_reassemblyOk {fid : Field} {rest : List Byte} (hsize : rest.length + 1 = airF s.cfg)
    (h : reassemblyOk s.cfg s.af) : reassemblyOk s.cfg (airFragOp fid rest s).1.af := by
  unfold airFragOp
  split
  · rename_i hnext
    obtain ⟨hprog, hid⟩ := hnext
    obtain ⟨-, -, hacc⟩ := h
    obtain ⟨first, hfirst, hle, hlen⟩ := hacc hprog
    refine ⟨by simp, fun h => (by cases h), fun _ => ⟨first, hfirst, ?_, ?_⟩⟩
    · rw [toNat_zeroExtend_field]; omega
    · have hcount : first - fid.toNat + 1 = (first - s.af.lastId.toNat + 1) + 1 := by omega
      rw [toNat_zeroExtend_field, List.length_append, hlen, length_take_airP hsize, hcount]
      ring
  · exact reassemblyOk_reset _

theorem airEndOp_reassemblyOk (len : Field) (rest : List Byte) :
    reassemblyOk s.cfg (airEndOp len rest s).1.af := by
  unfold airEndOp
  split
  · exact reassemblyOk_reset _
  · split <;> exact reassemblyOk_reset _

theorem airSingleOp_af (len : Field) (rest : List Byte) : (airSingleOp len rest s).1.af = s.af := by
  unfold airSingleOp
  split <;> rfl

theorem sizedFrame_reassemblyOk {rest : List Byte} {op : State → State × Option Packet}
    (h : reassemblyOk s.cfg s.af) (hop : rest.length + 1 = airF s.cfg → reassemblyOk s.cfg (op s).1.af) :
    reassemblyOk s.cfg (sizedFrame rest op s).1.af := by
  unfold sizedFrame
  split
  · rename_i hsize; exact hop hsize
  · exact h

/-- Whatever frame arrives, the invariants of R42 stay. -/
theorem airDecode_reassemblyOk (f : Frame) (h : reassemblyOk s.cfg s.af) :
    reassemblyOk s.cfg (airDecode f s).1.af := by
  unfold airDecode
  split
  · split <;> exact h
  · split
    · exact sizedFrame_reassemblyOk h fun _ => by rw [airSingleOp_af]; exact h
    · exact sizedFrame_reassemblyOk h airBeginOp_reassemblyOk
    · exact sizedFrame_reassemblyOk h fun hsize => airFragOp_reassemblyOk hsize h
    · exact sizedFrame_reassemblyOk h fun _ => airEndOp_reassemblyOk _ _

/-- Forwarding leaves the reassembly alone (R305). -/
theorem forward_af (r : State × Option Packet) : (forward r).af = r.1.af := by
  unfold forward
  split <;> rfl

theorem demodulate_reassemblyOk (n : Nat) (h : reassemblyOk s.cfg s.af) :
    reassemblyOk s.cfg (demodulate n s).af := by
  rw [demodulate_eq]
  split
  · exact h
  · rw [receiveFrame, forward_af]
    exact airDecode_reassemblyOk _ h

/-- The demodulation loop keeps the invariants of R42, pass by pass. -/
theorem rxLoop_reassemblyOk : ∀ (fuel : Nat) (s t : State), rxLoop fuel s = some t → reassemblyOk s.cfg s.af →
    reassemblyOk s.cfg t.af
  | 0, s, t, hloop, h => by
    simp only [rxLoop] at hloop
    split at hloop
    · injection hloop with ht; subst ht; exact h
    · cases hloop
  | fuel + 1, s, t, hloop, h => by
    simp only [rxLoop] at hloop
    split at hloop
    · split at hloop
      · injection hloop with ht; subst ht; exact h
      · have hcfg : (demodulate (drawNin s).1 (drawNin s).2).cfg = s.cfg := by rw [demodulate_frame]; rfl
        have hpass : reassemblyOk s.cfg (demodulate (drawNin s).1 (drawNin s).2).af :=
          demodulate_reassemblyOk (s := (drawNin s).2) _ h
        rw [← hcfg] at hpass ⊢
        exact rxLoop_reassemblyOk fuel _ t hloop hpass
    · cases hloop

/-- A processed block is sensed with an energy within its law (R181), or not at all where it is empty, buffered and
demodulated (R302, R303). -/
theorem rxProcess_next {blk : List Sample} (h : rxProcess blk s = .next t) :
    ∃ v, v = { s with env := v.env, cs := v.cs, rxBuf := s.rxBuf ++ blk }
      ∧ (v.cs = s.cs ∨ ∃ e n, s.cfg.floorDb.val ≤ e.val ∧ v.cs = sense s.cfg e n s.cs)
      ∧ rxLoop v.rxBuf.length v = some t := by
  unfold rxProcess at h
  split at h
  · cases h
  · rename_i u hu
    obtain ⟨hframe, hempty, hsensed⟩ := csUpdate_some hu
    dsimp only at h
    split at h
    · cases h
    · rename_i hloop
      injection h with h
      subst h
      refine ⟨{ u with rxBuf := u.rxBuf ++ blk }, by rw [hframe], ?_, hloop⟩
      by_cases hblk : blk = []
      · exact .inl (by rw [hempty hblk])
      · obtain ⟨hfloor, -, hcs⟩ := hsensed hblk
        exact .inr ⟨_, _, hfloor, hcs⟩

theorem rxProcess_effect {blk : List Sample} (h : rxProcess blk s = .next t) : RxEffect blk s t := by
  obtain ⟨v, hv, hcs, hloop⟩ := rxProcess_next h
  obtain ⟨hframe, hsuffix, hshort, ⟨l, hlog⟩, packets, hout⟩ := rxLoop_some _ v t le_rfl hloop
  have hkeep := rxLoop_reassemblyOk _ v t hloop
  have htcs : t.cs = v.cs := by rw [hframe]
  rw [hv] at hframe hsuffix hshort hlog hout hkeep
  exact {
    frame := by rw [htcs]; exact hframe
    newest := hsuffix
    short := hshort
    log := ⟨l, hlog.symm⟩
    hostOut := ⟨packets, hout⟩
    energy := by rw [htcs]; exact hcs
    reassembly := hkeep }

/-- The queued answers do not show in the effect, so a frame's own draws (R123) make no difference to it. -/
theorem RxEffect.of_env {blk : List Sample} {env : Env} (h : RxEffect blk { s with env := env } t) :
    RxEffect blk s t :=
  ⟨h.frame, h.newest, h.short, h.log, h.hostOut, h.energy, h.reassembly⟩

end

end Sys2Proof.Machine

/-! SUPPORT. What a BOOT and what one instruction can do, said once (70_reset_and_hazards.md R371 to R375;
30_encoding.md R120). -/

namespace Sys2Proof.Machine

/-- The effect of a BOOT that has a run: the reset state of R373 with the modem's answers, and where nothing failed an
admitted configuration and the PTT unkeyed once (R374). -/
structure BootEffect (a : Args) (s t : State) : Prop where
  frame : t = { bootState a s with
    cfg := t.cfg, trace := t.trace, log := t.log, fatal := t.fatal, env := t.env, drawn := t.drawn }
  args : t.cfg.toArgs = a
  running : t.fatal = none → cfgOk t.cfg = true ∧ t.trace = [.ptt false]

/-- The host byte that an instruction carries (R103). -/
def wireByte : Instr → Option Byte
  | .hostByte b => some b
  | .hostDelim => some DELIM
  | .hostEsc => some ESC
  | .hostEscaped b => some b
  | .hostData b => some b
  | .boot _ | .txStep | .txCancel | .rxBlock _ | .mayTx | .pttStatus => none
  | .airSingle _ _ | .airBegin _ _ | .airFrag _ _ | .airEnd _ _ => none

/-- What an instruction that answers a next state did, one constructor for each way. -/
inductive Effect (s : State) : Instr → State → Prop
  | boot {a t} (h : BootEffect a s t) : Effect s (.boot a) t
  | held {i} (hb : ∀ a, i ≠ .boot a) (hw : enabled i s = false) : Effect s i s
  | discarded {i} (hr : isReceive i) (hk : s.pttKeyed = true) : Effect s i s
  | received {i blk t} (hr : isReceive i) (hf : s.fatal = none) (hk : s.pttKeyed = false) (h : RxEffect blk s t) :
      Effect s i t
  | hostByte {i b} (hb : wireByte i = some b) (hf : s.fatal = none) : Effect s i (hostByteOp b s)
  | txStep {t} (hf : s.fatal = none) (h : TxMove s t) : Effect s .txStep t
  | txCancel (hf : s.fatal = none) : Effect s .txCancel (cancel s)
  | query {i} (r : Reply) (hq : i = .mayTx ∨ i = .pttStatus) (hf : s.fatal = none) : Effect s i (s.reply r)

section
variable {s t : State} {i : Instr}

/-! BOOT, stage by stage. -/

theorem bootAudioIn_frame (s : State) : bootAudioIn s = { s with
    log := (bootAudioIn s).log, fatal := (bootAudioIn s).fatal, env := (bootAudioIn s).env,
    drawn := (bootAudioIn s).drawn } := by
  simp only [bootAudioIn]
  split <;> rfl

theorem bootAudioOut_frame (s : State) : bootAudioOut s = { s with
    log := (bootAudioOut s).log, fatal := (bootAudioOut s).fatal, env := (bootAudioOut s).env,
    drawn := (bootAudioOut s).drawn } := by
  simp only [bootAudioOut]
  split
  · rw [bootAudioIn_frame]; rfl
  · rfl

/-- The PTT line by its draw: unkeyed where it is acquired, before the audio devices are asked (R371, R374). -/
theorem bootPtt_eq (s : State) : bootPtt s = if (drawPttAcquire s).1 then
    bootAudioOut ((drawPttAcquire s).2.pttSet false) else (drawPttAcquire s).2.stopFatal .ptt := rfl

theorem bootPtt_frame (h : s.pttKeyed = false) : bootPtt s = { s with
    trace := (bootPtt s).trace, log := (bootPtt s).log, fatal := (bootPtt s).fatal, env := (bootPtt s).env,
    drawn := (bootPtt s).drawn } := by
  rw [bootPtt_eq]
  split
  · rw [bootAudioOut_frame, ← h]; rfl
  · rfl

theorem bootPtt_trace (h : (bootPtt s).fatal = none) : (bootPtt s).trace = s.trace ++ [.ptt false] := by
  rw [bootPtt_eq] at h ⊢
  split at h
  · rename_i hok
    rw [if_pos hok, bootAudioOut_frame]; rfl
  · cases h

/-- The modem by its draw (R371, R372). -/
theorem bootModem_eq (s : State) : bootModem s = if (drawModemOpen s).1 then
    if geometryOk (bootGeometry (drawModemOpen s).2).cfg then
      .next (bootPtt (bootGeometry (drawModemOpen s).2)) else .refused .geometry
    else .next ((drawModemOpen s).2.stopFatal .modem) := rfl

theorem execBoot_effect {a : Args} (h : execBoot a s = .next t) : BootEffect a s t := by
  unfold execBoot at h
  split at h
  · rename_i hargs
    rw [bootModem_eq] at h
    split at h
    · split at h
      · rename_i hgeo
        injection h with h
        have hframe := bootPtt_frame (s := bootGeometry (drawModemOpen (bootState a s)).2) rfl
        have hcfg : t.cfg = (bootGeometry (drawModemOpen (bootState a s)).2).cfg := by rw [← h, hframe]
        rw [h] at hframe
        refine ⟨by rw [hcfg]; exact hframe, by rw [hcfg]; rfl, fun hlive => ⟨?_, ?_⟩⟩
        · rw [hcfg, cfgOk, hgeo, Bool.and_true]; exact hargs
        · rw [← h] at hlive ⊢; exact bootPtt_trace hlive
      · cases h
    · injection h with h
      subst h
      exact ⟨rfl, rfl, fun hlive => by cases hlive⟩
  · cases h

/-! Every other instruction passes the guard of R120. -/

/-- HOST_BYTE and the byte classes are one operation on their byte (R103, R140). -/
theorem exec_of_wireByte {b : Byte} (hb : wireByte i = some b) (s : State) :
    exec i s = takeEvent i s fun s => .next (hostByteOp b s) := by
  cases i <;> cases hb
  case hostByte => rfl
  case hostDelim => simp only [exec, execHostDelim, delimiter_eq_hostByteOp]
  case hostEsc => simp only [exec, execHostEsc, hostEsc_eq_hostByteOp]
  case hostEscaped => simp only [exec, execHostEscaped, hostEscaped_eq_hostByteOp]
  case hostData => simp only [exec, execHostData, hostData_eq_hostByteOp]

/-- RX_BLOCK and the air rows process a block, after the draws of an RX_FRAME are queued (R123), unless the PTT is
keyed (R301). -/
theorem exec_of_isReceive (hr : isReceive i) (s : State) : ∃ blk, ∃ env : State → Env, exec i s =
    takeEvent i s fun s => if s.pttKeyed then .next s else rxProcess blk { s with env := env s } := by
  obtain ⟨blk, rfl⟩ | ⟨k, f, rest, blk, rfl⟩ := hr
  · exact ⟨blk, State.env, rfl⟩
  · refine ⟨blk, fun s => (s.answerFrame blk.length (airHeader s.cfg.tags k f :: rest)).env, ?_⟩
    cases k <;> rfl

/-- The receive agent presents no BOOT and no TX_CANCEL (R78). -/
theorem isReceive_ne (hr : isReceive i) : (∀ a, i ≠ .boot a) ∧ i ≠ .txCancel := by
  obtain ⟨blk, rfl⟩ | ⟨k, f, rest, blk, rfl⟩ := hr
  · simp
  · cases k <;> simp [airInstr]

theorem effect_of_receive (hr : isReceive i) (h : exec i s = .next t) : Effect s i t := by
  obtain ⟨blk, env, he⟩ := exec_of_isReceive hr s
  rw [he] at h
  obtain ⟨-, ⟨hf, -, hrun⟩ | ⟨hw, rfl⟩⟩ := takeEvent_next h
  · split at hrun
    · rename_i hk
      injection hrun with hrun
      subst hrun
      exact .discarded hr hk
    · rename_i hk
      exact .received hr hf (by simpa using hk) (rxProcess_effect hrun).of_env
  · exact .held (isReceive_ne hr).1 hw

theorem effect_of_wireByte {b : Byte} (hb : wireByte i = some b) (h : exec i s = .next t) : Effect s i t := by
  rw [exec_of_wireByte hb] at h
  obtain ⟨-, ⟨hf, -, hrun⟩ | ⟨hw, rfl⟩⟩ := takeEvent_next h
  · injection hrun with hrun
    subst hrun
    exact .hostByte hb hf
  · exact .held (by rintro a rfl; cases hb) hw

theorem effect_of_query (r : State → Reply) (hq : i = .mayTx ∨ i = .pttStatus)
    (h : takeEvent i s (fun s => .next (s.reply (r s))) = .next t) : Effect s i t := by
  obtain ⟨-, ⟨hf, -, hrun⟩ | ⟨hw, rfl⟩⟩ := takeEvent_next h
  · injection hrun with hrun
    subst hrun
    exact .query _ hq hf
  · exact .held (by rintro a rfl; cases hq <;> contradiction) hw

theorem effect_of_txStep (h : exec .txStep s = .next t) : Effect s .txStep t := by
  simp only [exec, execTxStep] at h
  obtain ⟨-, ⟨hf, -, hrun⟩ | ⟨hw, rfl⟩⟩ := takeEvent_next h
  · exact .txStep hf (txPhase_move hrun)
  · exact .held (by simp) hw

theorem effect_of_txCancel (h : exec .txCancel s = .next t) : Effect s .txCancel t := by
  simp only [exec, execTxCancel] at h
  obtain ⟨-, ⟨hf, -, hrun⟩ | ⟨hw, rfl⟩⟩ := takeEvent_next h
  · injection hrun with hrun
    subst hrun
    exact .txCancel hf
  · exact .held (by simp) hw

/-- Every next state of an instruction is one of the effects. -/
theorem exec_effect (h : exec i s = .next t) : Effect s i t := by
  cases i with
  | boot a => exact .boot (execBoot_effect h)
  | hostByte b => exact effect_of_wireByte rfl h
  | txStep => exact effect_of_txStep h
  | txCancel => exact effect_of_txCancel h
  | rxBlock blk => exact effect_of_receive (.inl ⟨blk, rfl⟩) h
  | mayTx => exact effect_of_query (fun s => .mayTx s.cs.allowed) (.inl rfl) h
  | pttStatus => exact effect_of_query (fun s => .pttStatus s.pttKeyed) (.inr rfl) h
  | hostDelim => exact effect_of_wireByte rfl h
  | hostEsc => exact effect_of_wireByte rfl h
  | hostEscaped b => exact effect_of_wireByte rfl h
  | hostData b => exact effect_of_wireByte rfl h
  | airSingle len rcv => exact effect_of_receive (.inr ⟨.single, len, rcv.rest, rcv.blk, rfl⟩) h
  | airBegin fid rcv => exact effect_of_receive (.inr ⟨.begin1, fid, rcv.rest, rcv.blk, rfl⟩) h
  | airFrag fid rcv => exact effect_of_receive (.inr ⟨.frag, fid, rcv.rest, rcv.blk, rfl⟩) h
  | airEnd len rcv => exact effect_of_receive (.inr ⟨.end1, len, rcv.rest, rcv.blk, rfl⟩) h

/-- TX_CANCEL after key-up keeps the packet and goes to KEY_DOWN; before it, the transmit machine is as at reset (R274,
R275). -/
theorem cancel_eq (s : State) : cancel s = { s with
    log := s.log ++ [.cancel s.tx.phase s.tx.queue.length]
    tx := if s.tx.phase.keyed then { s.tx with phase := .keyDown, queue := [] } else Transmit.reset } := by
  unfold cancel
  dsimp only
  split <;> rfl

end

end Sys2Proof.Machine

/-! SUPPORT. No event but BOOT takes anything off a record (10_state.md R50 to R53, R344). -/

namespace Sys2Proof.Machine

/-- `t` comes after `s` in one run: the configuration and the stop are the same, and the records only grew. -/
structure Extends (s t : State) : Prop where
  cfg : t.cfg = s.cfg
  fatal : t.fatal = s.fatal
  booted : t.booted = s.booted
  log : s.log <+: t.log
  trace : s.trace <+: t.trace
  hostOut : s.hostOut <+: t.hostOut
  replies : s.replies <+: t.replies

section
variable {s t : State} {i : Instr}

theorem extends_refl (s : State) : Extends s s :=
  ⟨rfl, rfl, rfl, List.prefix_rfl, List.prefix_rfl, List.prefix_rfl, List.prefix_rfl⟩

/-- What a move writes to the trace: a PTT action is the PTT's new value, and any other action leaves it. -/
theorem TxMove.trace (h : TxMove s t) : (∃ k samples, t.trace = s.trace ++ written k samples ∧ t.pttKeyed = s.pttKeyed)
    ∨ t.trace = s.trace ++ [.ptt t.pttKeyed] := by
  cases h with
  | moved hu hn => obtain ⟨k, samples, env, drawn, rfl⟩ := hu; exact .inl ⟨k, samples, rfl, rfl⟩
  | frameSent hu hp hi =>
    obtain ⟨k, samples, env, drawn, rfl⟩ := hu
    rw [frameDone_eq]
    exact .inl ⟨k, samples, rfl, rfl⟩
  | failed hu hk => obtain ⟨k, samples, env, drawn, rfl⟩ := hu; exact .inl ⟨k, samples, rfl, rfl⟩
  | notDrained hu => obtain ⟨k, samples, env, drawn, rfl⟩ := hu; exact .inl ⟨k, samples, rfl, rfl⟩
  | keyedUp hp _ => exact .inr rfl
  | keyedDown hp => exact .inr rfl
  | _ => exact .inl ⟨.leadIn, [], (List.append_nil _).symm, rfl⟩

theorem TxMove.toExtends (h : TxMove s t) : Extends s t where
  cfg := by rw [h.frame]
  fatal := by rw [h.frame]
  booted := by rw [h.frame]
  log := by obtain ⟨l, hl, -⟩ := h.log; exact ⟨l, hl.symm⟩
  trace := by
    obtain ⟨k, samples, ht, -⟩ | ht := h.trace
    · exact ⟨_, ht.symm⟩
    · exact ⟨_, ht.symm⟩
  hostOut := by rw [h.frame]
  replies := by rw [h.frame]

theorem RxEffect.toExtends {blk : List Sample} (h : RxEffect blk s t) : Extends s t where
  cfg := by rw [h.frame]
  fatal := by rw [h.frame]
  booted := by rw [h.frame]
  log := h.log
  trace := by rw [h.frame]
  hostOut := by obtain ⟨packets, hout⟩ := h.hostOut; exact ⟨_, hout.symm⟩
  replies := by rw [h.frame]

theorem hostByteOp_extends (b : Byte) (s : State) : Extends s (hostByteOp b s) where
  cfg := by rw [hostByteOp_frame]
  fatal := by rw [hostByteOp_frame]
  booted := by rw [hostByteOp_frame]
  log := by obtain ⟨l, hl, -⟩ := hostByteOp_log s b; exact ⟨l, hl.symm⟩
  trace := by rw [hostByteOp_frame]
  hostOut := by rw [hostByteOp_frame]
  replies := by rw [hostByteOp_frame]

theorem cancel_extends (s : State) : Extends s (cancel s) := by
  rw [cancel_eq]
  exact { extends_refl s with log := List.prefix_append _ _ }

theorem reply_extends (r : Reply) (s : State) : Extends s (s.reply r) :=
  { extends_refl s with replies := List.prefix_append _ _ }

theorem Effect.toExtends (h : Effect s i t) (hb : ∀ a, i ≠ .boot a) : Extends s t := by
  cases h with
  | boot _ => exact absurd rfl (hb _)
  | held _ _ => exact extends_refl s
  | discarded _ _ => exact extends_refl s
  | received _ _ _ h => exact h.toExtends
  | hostByte _ _ => exact hostByteOp_extends _ s
  | txStep _ h => exact h.toExtends
  | txCancel _ => exact cancel_extends s
  | query r _ _ => exact reply_extends r s

/-- Outside the receive path an event raises at most one record (R344). -/
theorem Effect.log_le (h : Effect s i t) (hb : ∀ a, i ≠ .boot a) (hr : ¬ isReceive i) :
    t.log.length ≤ s.log.length + 1 := by
  have hgrows : ∃ l, t.log = s.log ++ l ∧ l.length ≤ 1 := by
    cases h with
    | boot _ => exact absurd rfl (hb _)
    | held _ _ => exact ⟨[], by simp⟩
    | discarded hr' _ => exact absurd hr' hr
    | received hr' _ _ _ => exact absurd hr' hr
    | hostByte _ _ => exact hostByteOp_log s _
    | txStep _ h => exact h.log
    | txCancel _ => exact ⟨[_], by rw [cancel_eq], le_rfl⟩
    | query _ _ _ => exact ⟨[], by simp⟩
  obtain ⟨l, hl, hlen⟩ := hgrows
  rw [hl, List.length_append]
  omega

/-- An enabled TX_CANCEL is logged (R274, R275). -/
theorem Effect.log_of_txCancel (h : Effect s .txCancel t) (hf : s.fatal = none) :
    t.log.length = s.log.length + 1 := by
  cases h with
  | held _ hw => simp [enabled, ready, hf] at hw
  | discarded hr _ => exact absurd rfl (isReceive_ne hr).2
  | received hr _ _ _ => exact absurd rfl (isReceive_ne hr).2
  | hostByte hb _ => cases hb
  | txCancel _ => rw [cancel_eq]; simp
  | query _ hq _ => cases hq <;> contradiction

end

/-- Settles O56, from the effect of the instruction. -/
theorem recordsAreAppendOnly : Obligations.RecordsAreAppendOnly := by
  intro i s t h hb
  have he := exec_effect h
  obtain ⟨hcfg, hfatal, hbooted, hlog, htrace, hout, hreplies⟩ := he.toExtends hb
  refine ⟨hcfg, hfatal, hbooted, hlog, htrace, hout, hreplies, he.log_le hb, ?_⟩
  rintro rfl hf
  exact he.log_of_txCancel hf

end Sys2Proof.Machine

/-! SUPPORT. The PTT is keyed exactly in the keyed phases, whatever is executed (10_state.md R48, R276). -/

namespace Sys2Proof.Machine

variable {s t : State} {i : Instr}

theorem TxMove.pttOk (h : TxMove s t) (hs : pttOk s) : pttOk t := by
  cases h with
  | nothing _ => exact hs
  | tooLong _ _ => exact hs
  | take hp _ _ => exact hs.trans (by rw [hp]; rfl)
  | polled _ _ => exact hs
  | gaveUp m hp => exact hs.trans (by rw [hp]; rfl)
  | keyedUp _ _ => rfl
  | moved hu hn =>
    obtain ⟨k, samples, env, drawn, rfl⟩ := hu
    obtain ⟨hkeyed, hnext⟩ := keyed_of_afterOk hn
    exact hs.trans (hkeyed.trans hnext.symm)
  | frameSent hu hp _ =>
    obtain ⟨k, samples, env, drawn, rfl⟩ := hu
    rw [frameDone_eq]
    refine hs.trans ?_
    rw [hp]
    dsimp only
    split <;> rfl
  | failed hu hk => obtain ⟨k, samples, env, drawn, rfl⟩ := hu; exact hs.trans hk
  | notDrained hu => obtain ⟨k, samples, env, drawn, rfl⟩ := hu; exact hs
  | keyedDown _ => rfl

/-- TX_CANCEL keeps the PTT and, by its phase, either stays keyed or stays unkeyed (R274, R275). -/
theorem cancel_pttOk (hs : pttOk s) : pttOk (cancel s) := by
  rw [cancel_eq]
  refine hs.trans ?_
  dsimp only
  split
  · rename_i hk; exact hk
  · rename_i hk; exact Bool.not_eq_true _ ▸ hk

theorem Effect.pttOk (h : Effect s i t) (hs : pttOk s) : pttOk t := by
  cases h with
  | boot h => rw [h.frame]; rfl
  | held _ _ => exact hs
  | discarded _ _ => exact hs
  | received _ _ _ h => rw [h.frame]; exact hs
  | hostByte _ _ => rw [hostByteOp_frame]; exact hs
  | txStep _ h => exact h.pttOk hs
  | txCancel _ => exact cancel_pttOk hs
  | query _ _ _ => exact hs

/-- Settles O60: a step runs one instruction, and its effect keeps the condition. -/
theorem pttKeyedExactlyInKeyedPhases : Obligations.PttKeyedExactlyInKeyedPhases := by
  intro s t hs h
  obtain rfl | ⟨i, rest, hi⟩ := step_next h
  · exact hs
  · exact (exec_effect hi).pttOk hs

end Sys2Proof.Machine

/-! SUPPORT. The reset state, the stopped block and the completion of RX_BLOCK (70_reset_and_hazards.md R371 to R376;
45_receive_sequencer.md R303). -/

namespace Sys2Proof.Machine

variable {s : State}

/-- After a fatal boot every event but a new BOOT waits (R53, R375). -/
theorem waits_of_fatal {i : Instr} (hb : s.booted = true) (hf : s.fatal ≠ none) (hi : ∀ a, i ≠ .boot a) :
    waits i s = true := by
  have hdisabled : enabled i s = false := by simp [enabled, hf]
  cases i with
  | boot a => exact absurd rfl (hi a)
  | _ => simp [waits, hb, hdisabled]

/-- Settles O5: every pending input waits, so the step finds none to take. -/
theorem fatalBootStopsBlock : Obligations.FatalBootStopsBlock := by
  intro s hb hf hpending
  have hnone : firstReady s s.pending = none := by
    refine firstReady_eq_none _ fun x hx => ?_
    obtain ⟨i, hdecode, hi⟩ := hpending x hx
    rw [inputWaits, hdecode]
    exact waits_of_fatal hb hf hi
  rw [step, hnone]

/-- The queues with one answer for each draw of a BOOT that succeeds (R371). -/
def Env.acquiring (e : Env) (bits mtx mrx : Nat) : Env :=
  { e with
    modemOpen := true :: e.modemOpen, bitsPerFrame := bits :: e.bitsPerFrame, maxTx := mtx :: e.maxTx
    maxRx := mrx :: e.maxRx, pttAcquire := true :: e.pttAcquire, audioOut := true :: e.audioOut
    audioIn := true :: e.audioIn }

/-- The boot asks the modem, the PTT and the audio devices in turn, each takes its queued answer, and only the check of
the geometry can stop it (R371, R372). -/
theorem bootModem_of_acquiring {e : Env} {bits mtx mrx : Nat} (he : s.env = e.acquiring bits mtx mrx) :
    bootModem s =
      if geometryOk { s.cfg with bitsPerFrame := bits, maxTxSamples := mtx, maxRxSamples := mrx } then
        .next { s with
          cfg := { s.cfg with bitsPerFrame := bits, maxTxSamples := mtx, maxRxSamples := mrx }
          pttKeyed := false, trace := s.trace ++ [.ptt false], env := e }
      else .refused .geometry := by
  obtain ⟨cfg, hf, cs, af, tx, pttKeyed, rxBuf, hostOut, trace, log, fatal, booted, replies, pending, env, drawn⟩ := s
  cases he
  rfl

/-- Settles O10. -/
theorem bootSetsResetState : Obligations.BootSetsResetState := by
  intro a s bits mtx mrx e hargs hlow hhigh hmtx hmrx henv
  have hgeo : geometryOk { toArgs := a, bitsPerFrame := bits, maxTxSamples := mtx, maxRxSamples := mrx } = true :=
    (geometryOk_iff _).mpr ⟨hlow, hhigh, hmtx, hmrx⟩
  rw [exec_boot_of_argsOk s hargs]
  exact (bootModem_of_acquiring (s := bootState a s) (e := e) henv).trans (if_pos hgeo)

/-- A block that is not discarded is processed to the end (R303). -/
theorem rxProcess_completes (blk : List Sample) (ha : answersOk s.cfg s.env) (hm : 1 ≤ s.cfg.maxRxSamples) :
    ∃ t, rxProcess blk s = .next t := by
  obtain ⟨hnin, henergy⟩ := ha
  obtain ⟨u, hu⟩ := csUpdate_completes (blk := blk) henergy
  have hcfg : u.cfg = s.cfg := by rw [(csUpdate_some hu).1]
  obtain ⟨t, ht⟩ := rxLoop_completes (u.rxBuf ++ blk).length { u with rxBuf := u.rxBuf ++ blk }
    (by rw [hcfg, (csUpdate_answers hu).1]; exact hnin) (by rw [hcfg]; exact hm)
  exact ⟨t, by simp only [rxProcess, hu, ht]⟩

/-- Settles O50: the loop ends, and the effect of the block says what is left. -/
theorem rxBlockCompletes : Obligations.RxBlockCompletes := by
  intro s blk hlive hanswers hmax
  have hexec : exec (.rxBlock blk) s = if s.pttKeyed then .next s else rxProcess blk s := by
    simp only [exec, execRxBlock]
    exact takeEvent_of_live hlive rfl
  cases hkeyed : s.pttKeyed with
  | true => exact ⟨s, by rw [hexec, hkeyed]; rfl, fun h => by cases h⟩
  | false =>
    obtain ⟨t, ht⟩ := rxProcess_completes blk hanswers hmax
    have heffect := rxProcess_effect ht
    exact ⟨t, by rw [hexec, hkeyed]; exact ht, fun _ => ⟨heffect.short, heffect.newest⟩⟩

end Sys2Proof.Machine

/-! SUPPORT. The invariant of Safety.lean holds at reset and is kept by every step (10_state.md R36, R42, R44 to R49;
41_host_framer.md R149; 44_transmit_sequencer.md R276). -/

namespace Sys2Proof.Machine

/-! AirFramer.encode gives 1 to 64 frames of the air-frame size (R210, R212, R213). -/

section
variable {c : Cfg}

theorem length_mkFrame {data : List Byte} (k : AirKind) (fld : Nat) (hF : 4 ≤ airF c) (hdata : data.length ≤ airP c) :
    (mkFrame c k fld data).length = airF c := by
  have hcrc : ∀ v, (crcBytes c.crcOrder v).length = 2 := by intro v; cases c.crcOrder <;> rfl
  have hP : airP c = airF c - 3 := rfl
  simp only [mkFrame, frameBody, List.length_append, List.length_cons, List.length_replicate, hcrc]
  omega

/-- Rounding up is adjoint to the product: `k` payloads hold `n` bytes exactly where `k` reaches the quotient (R15). -/
theorem ceilDiv_le_iff {n d : Nat} (hd : 0 < d) (k : Nat) : ceilDiv n d ≤ k ↔ n ≤ d * k := by
  rw [ceilDiv, ← Nat.ceilDiv_eq_add_pred_div, ceilDiv_le_iff_le_mul hd]

/-- The tail that END carries fits into one payload (R217). -/
theorem tail_le_airP {n d : Nat} (hd : 0 < d) : n - (ceilDiv n d - 1) * d ≤ d := by
  have hcover : n ≤ d * ceilDiv n d := (ceilDiv_le_iff hd _).mp le_rfl
  have hlast : (ceilDiv n d - 1) * d = d * ceilDiv n d - d := by rw [Nat.sub_one_mul, Nat.mul_comm]
  omega

theorem multiFrames_frames {p : Packet} (hF : 4 ≤ airF c) :
    ∀ f ∈ multiFrames c p (ceilDiv p.length (airP c)), f.length = airF c := by
  have hP : 0 < airP c := by rw [airP]; omega
  have hfragment : ∀ j, (fragment c p j).length ≤ airP c := fun j => List.length_take_le _ _
  have htail : (p.drop ((ceilDiv p.length (airP c) - 1) * airP c)).length ≤ airP c := by
    rw [List.length_drop]; exact tail_le_airP hP
  intro f hf
  simp only [multiFrames, fragFrames, List.mem_cons, List.mem_append, List.mem_map, List.not_mem_nil, or_false] at hf
  obtain rfl | ⟨j, -, rfl⟩ | rfl := hf
  · exact length_mkFrame _ _ hF (hfragment 0)
  · exact length_mkFrame _ _ hF (hfragment (j + 1))
  · exact length_mkFrame _ _ hF htail

theorem airEncode_frames {p : Packet} {frames : List Frame} (hF : 4 ≤ airF c) (h : airEncode c p = some frames) :
    frames ≠ [] ∧ frames.length ≤ 64 ∧ ∀ f ∈ frames, f.length = airF c := by
  unfold airEncode at h
  split at h
  · cases h
  · rename_i hfits
    split at h
    · rename_i hsingle
      injection h with h
      subst h
      exact ⟨by simp, by simp, by simpa using length_mkFrame _ _ hF hsingle⟩
    · injection h with h
      have hP : 0 < airP c := by rw [airP]; omega
      have hk : ceilDiv p.length (airP c) ≤ 64 := by
        rw [ceilDiv_le_iff hP, Nat.mul_comm]; exact Nat.le_of_not_lt hfits
      refine ⟨by rw [← h]; exact List.cons_ne_nil _ _, ?_, h ▸ multiFrames_frames hF⟩
      rw [← h]
      simp only [multiFrames, fragFrames, List.length_cons, List.length_append, List.length_map, List.length_range,
        List.length_nil]
      omega

end

/-! The transmit machine (R43 to R47). -/

section
variable {c : Cfg} {t u : Transmit}

/-- In no phase is the index past the frames. -/
theorem index_le_of_indexOk (h : indexOk t) : t.index ≤ t.frames.length := by
  unfold indexOk at h
  split at h
  · obtain ⟨-, hindex, -⟩ := h; omega
  · obtain ⟨-, hindex⟩ := h; omega
  all_goals omega

/-- After a failed write or a TX_CANCEL the frames and the index stay (R273, R275; log entry 15). -/
theorem indexOk_keyDown (queue : List Packet) (h : indexOk t) :
    indexOk { t with phase := .keyDown, queue := queue } :=
  index_le_of_indexOk (t := t) h

/-- A write or a poll that went well leads to the right index for its next phase (R266 to R271). -/
theorem indexOk_of_afterOk {next : Phase} (h : indexOk t) (hn : t.phase.afterOk = some next) :
    indexOk { t with phase := next } := by
  unfold indexOk at h
  split at h
  case h_1 hp => rw [hp] at hn; cases hn
  case h_2 hp => rw [hp] at hn; cases hn
  case h_3 hp => rw [hp] at hn; cases hn; exact h
  case h_4 hp =>
    obtain ⟨hframes, hindex⟩ := h
    rw [hp] at hn; cases hn
    exact hindex ▸ List.length_pos_iff.mpr hframes
  case h_5 hp => rw [hp] at hn; cases hn
  case h_6 hp => rw [hp] at hn; cases hn; exact h
  case h_7 hp => rw [hp] at hn; cases hn; exact h
  case h_8 hp => rw [hp] at hn; cases hn; exact h.le
  case h_9 hp => rw [hp] at hn; cases hn

/-- The bounds but that of the index do not look at the phase or the index. -/
theorem transmitOk_of_index (h : transmitOk c t) (hi : indexOk u) (hframes : u.frames = t.frames)
    (hpolls : u.polls = t.polls) (hqueue : u.queue = t.queue) : transmitOk c u := by
  obtain ⟨-, hcount, hsize, hdepth, hpackets, hlimit⟩ := h
  rw [← hframes] at hcount hsize
  rw [← hqueue] at hdepth hpackets
  rw [← hpolls] at hlimit
  exact ⟨hi, hcount, hsize, hdepth, hpackets, hlimit⟩

/-- A machine in IDLE with no packet only has to bound its queue (R45, R46). -/
theorem transmitOk_idle {queue : List Packet} (hdepth : queue.length ≤ c.txqDepth)
    (hpackets : ∀ p ∈ queue, 1 ≤ p.length ∧ p.length ≤ c.hostMtu) :
    transmitOk c { phase := .idle, frames := [], index := 0, polls := 0, queue := queue } :=
  ⟨⟨rfl, rfl, rfl⟩, by simp, by simp, hdepth, hpackets, fun _ _ => .inr rfl⟩

theorem transmitOk_cleared (h : transmitOk c t) :
    transmitOk c { t with phase := .idle, frames := [], index := 0, polls := 0 } := by
  obtain ⟨-, -, -, hdepth, hpackets, -⟩ := h
  exact transmitOk_idle hdepth hpackets

end

section
variable {s t : State}

/-- The queue may shrink from the front (R262). -/
theorem transmitOk_dequeue {p : Packet} {queue : List Packet} (h : transmitOk s.cfg s.tx)
    (hq : s.tx.queue = p :: queue) : transmitOk s.cfg { s.tx with queue := queue } := by
  obtain ⟨hi, hcount, hsize, hdepth, hpackets, hlimit⟩ := h
  rw [hq] at hdepth hpackets
  exact ⟨hi, hcount, hsize, Nat.le_of_succ_le hdepth, fun q hmem => hpackets q (List.mem_cons_of_mem _ hmem), hlimit⟩

theorem TxMove.transmitOk (h : TxMove s t) (hF : 4 ≤ airF s.cfg) (hs : transmitOk s.cfg s.tx) :
    transmitOk s.cfg t.tx := by
  have hindex : indexOk s.tx := hs.1
  cases h with
  | nothing _ => exact hs
  | tooLong _ hq => exact transmitOk_dequeue hs hq
  | take _ hq hf =>
    obtain ⟨-, -, -, hdepth, hpackets, -⟩ := transmitOk_dequeue hs hq
    obtain ⟨hsome, hcount, hsize⟩ := airEncode_frames hF hf
    exact ⟨⟨hsome, rfl⟩, hcount, hsize, hdepth, hpackets, fun _ _ => .inr rfl⟩
  | polled hp hm =>
    obtain ⟨hi, hcount, hsize, hdepth, hpackets, -⟩ := hs
    refine ⟨?_, hcount, hsize, hdepth, hpackets, fun m h => .inl (hm m h)⟩
    simp only [indexOk, hp] at hi ⊢
    exact hi
  | gaveUp m _ => exact transmitOk_cleared hs
  | keyedUp hp _ =>
    refine transmitOk_of_index hs ?_ rfl rfl rfl
    simp only [indexOk, hp] at hindex
    exact hindex
  | moved hu hn =>
    obtain ⟨k, samples, env, drawn, rfl⟩ := hu
    exact transmitOk_of_index hs (indexOk_of_afterOk hindex hn) rfl rfl rfl
  | frameSent hu hp hi =>
    obtain ⟨k, samples, env, drawn, rfl⟩ := hu
    rw [frameDone_eq]
    refine transmitOk_of_index hs ?_ rfl rfl rfl
    dsimp only
    split
    · rename_i hlast; exact hlast
    · rename_i hmore
      simp only [indexOk, hp]
      omega
  | failed hu _ =>
    obtain ⟨k, samples, env, drawn, rfl⟩ := hu
    exact transmitOk_of_index hs (indexOk_keyDown _ hindex) rfl rfl rfl
  | notDrained hu => obtain ⟨k, samples, env, drawn, rfl⟩ := hu; exact hs
  | keyedDown _ => exact transmitOk_cleared hs

theorem cancel_transmitOk (hs : transmitOk s.cfg s.tx) : transmitOk s.cfg (cancel s).tx := by
  obtain ⟨hi, hcount, hsize, -, -, hlimit⟩ := hs
  rw [cancel_eq]
  dsimp only
  split
  · exact ⟨indexOk_keyDown _ hi, hcount, hsize, Nat.zero_le _, by simp, hlimit⟩
  · exact transmitOk_idle (Nat.zero_le _) (by simp)

/-! The last PTT action (R48). -/

/-- An audio action is no PTT action (R51). -/
theorem lastPtt_of_written {k : AudioKind} {samples : List Sample} (h : t.trace = s.trace ++ written k samples) :
    lastPtt t = lastPtt s := by
  have hnone : (written k samples).filterMap Action.pttValue = [] := by
    unfold written
    split <;> rfl
  rw [lastPtt, h, List.filterMap_append, hnone, List.append_nil, lastPtt]

theorem lastPtt_of_ptt {actions : List Action} {v : Bool} (h : t.trace = actions ++ [.ptt v]) :
    lastPtt t = some v := by
  simp [lastPtt, h, Action.pttValue]

theorem TxMove.lastPtt (h : TxMove s t) (hs : lastPtt s = some s.pttKeyed) : lastPtt t = some t.pttKeyed := by
  obtain ⟨k, samples, htrace, hkeyed⟩ | htrace := h.trace
  · rw [lastPtt_of_written htrace, hs, hkeyed]
  · exact lastPtt_of_ptt htrace

/-! The host decoder and the queue behind it (R36, R47, R149). -/

/-- A frame of 1 to HOST_MTU bytes is queued, under DROP_OLDEST in place of the oldest (R145, R148). -/
theorem deliver_transmitOk {p : Packet} (hdepth : 1 ≤ s.cfg.txqDepth) (hp : 1 ≤ p.length ∧ p.length ≤ s.cfg.hostMtu)
    (hs : transmitOk s.cfg s.tx) : transmitOk s.cfg (deliver p s).tx := by
  obtain ⟨hi, hcount, hsize, hlen, hpackets, hlimit⟩ := hs
  unfold deliver
  split
  · rename_i hroom
    refine ⟨hi, hcount, hsize, by simpa using hroom, fun q hq => ?_, hlimit⟩
    obtain hq | rfl : q ∈ s.tx.queue ∨ q = p := by simpa using hq
    · exact hpackets q hq
    · exact hp
  · refine ⟨hi, hcount, hsize, ?_, fun q hq => ?_, hlimit⟩
    · simp only [raise_tx, List.length_append, List.length_drop, List.length_singleton]
      omega
    · obtain hq | rfl : q ∈ s.tx.queue.drop 1 ∨ q = p := by
        simpa only [raise_tx, List.mem_append, List.mem_singleton] using hq
      · exact hpackets q (List.mem_of_mem_drop hq)
      · exact hp

theorem delimiter_transmitOk (hdepth : 1 ≤ s.cfg.txqDepth) (hhost : hostOk s.cfg s.hf)
    (hs : transmitOk s.cfg s.tx) : transmitOk s.cfg (delimiter s).tx := by
  obtain ⟨hmtu, -⟩ := hhost
  unfold delimiter
  split
  · split
    · exact hs
    · rename_i hne
      exact deliver_transmitOk hdepth ⟨List.length_pos_iff.mpr hne, hmtu⟩ hs
  · exact hs

theorem put_tx (b : Byte) (s : State) : (put b s).tx = s.tx := by rw [put_frame]

theorem hostByteOp_transmitOk (b : Byte) (hdepth : 1 ≤ s.cfg.txqDepth) (hhost : hostOk s.cfg s.hf)
    (hs : transmitOk s.cfg s.tx) : transmitOk s.cfg (hostByteOp b s).tx := by
  unfold hostByteOp
  split
  · split <;> exact hs
  · split
    · exact delimiter_transmitOk hdepth hhost hs
    · split
      · rw [escaped, put_tx]; exact hs
      · split
        · exact hs
        · rw [put_tx]; exact hs

/-- An open or a fresh frame has an empty buffer (R142, R144). -/
theorem hostOk_empty (c : Cfg) (inFrame : Bool) : hostOk c { inFrame := inFrame, escape := false, buf := [] } :=
  ⟨Nat.zero_le _, fun _ => ⟨rfl, rfl⟩⟩

/-- In a frame a byte is put below HOST_MTU, or the frame is given up (R144). -/
theorem put_hostOk (b : Byte) (hframe : s.hf.inFrame = true) (hmtu : s.hf.buf.length ≤ s.cfg.hostMtu) :
    hostOk s.cfg (put b s).hf := by
  unfold put
  split
  · exact hostOk_empty _ _
  · refine ⟨?_, fun h => absurd (hframe.symm.trans h) Bool.true_eq_false_eq_False⟩
    simp only [List.length_append, List.length_singleton]
    omega

theorem delimiter_hf (s : State) : (delimiter s).hf = { inFrame := true, escape := false, buf := [] } := by
  unfold delimiter
  split
  · split <;> rfl
  · rfl

theorem hostByteOp_hostOk (b : Byte) (hs : hostOk s.cfg s.hf) : hostOk s.cfg (hostByteOp b s).hf := by
  have hmtu : s.hf.buf.length ≤ s.cfg.hostMtu := hs.1
  unfold hostByteOp
  split
  · split
    · exact hostOk_empty _ _
    · exact hs
  · rename_i hframe
    have hframe : s.hf.inFrame = true := by simpa using hframe
    split
    · rw [delimiter_hf]; exact hostOk_empty _ _
    · split
      · exact put_hostOk (s := { s with hf := { s.hf with escape := false } }) _ hframe hmtu
      · split
        · exact ⟨hmtu, fun h => by rw [setEscape_hf] at h; rw [hframe] at h; cases h⟩
        · exact put_hostOk b hframe hmtu

/-! The smoothed energy (R39). -/

/-- The smoothed value lies between the old one and the new energy, so it stays above the floor (R183). -/
theorem sense_energy {c : Cfg} {e : Energy} {cs : ChannelEnergy} (n : Nat) (halpha : 0 < c.alpha.val)
    (hone : c.alpha.val ≤ 1) (he : c.floorDb.val ≤ e.val) (hcs : c.floorDb.val ≤ cs.smoothed.val) :
    c.floorDb.val ≤ (sense c e n cs).smoothed.val := by
  rw [sense, gate_smoothed, val_smooth]
  calc c.floorDb.val = (1 - c.alpha.val) * c.floorDb.val + c.alpha.val * c.floorDb.val := by ring
    _ ≤ (1 - c.alpha.val) * cs.smoothed.val + c.alpha.val * e.val :=
      add_le_add (mul_le_mul_of_nonneg_left hcs (sub_nonneg.mpr hone)) (mul_le_mul_of_nonneg_left he halpha.le)

/-! The invariant of a running block, effect by effect. -/

theorem RxEffect.runOk {blk : List Sample} (h : RxEffect blk s t) (hs : RunOk s) : RunOk t := by
  obtain ⟨hargs, -⟩ := Bool.and_eq_true_iff.mp hs.cfg
  obtain ⟨-, -, -, halpha, hone, -, -⟩ := (argsOk_iff _).mp hargs
  have hcfg : t.cfg = s.cfg := by rw [h.frame]
  exact {
    cfg := by rw [hcfg]; exact hs.cfg
    host := by rw [h.frame]; exact hs.host
    energy := by
      rw [hcfg]
      obtain hcs | ⟨e, n, he, hcs⟩ := h.energy
      · rw [hcs]; exact hs.energy
      · rw [hcs]; exact sense_energy n halpha hone he hs.energy
    reassembly := by rw [hcfg]; exact h.reassembly hs.reassembly
    transmit := by rw [h.frame]; exact hs.transmit
    rxBuf := by rw [hcfg]; exact h.short
    lastPtt := by rw [h.frame]; exact hs.lastPtt }

theorem TxMove.runOk (h : TxMove s t) (hs : RunOk s) : RunOk t := by
  obtain ⟨-, hgeo⟩ := Bool.and_eq_true_iff.mp hs.cfg
  obtain ⟨hF, -, -, -⟩ := (geometryOk_iff _).mp hgeo
  have htransmit := h.transmitOk hF hs.transmit
  have hptt := h.lastPtt hs.lastPtt
  rw [h.frame] at htransmit hptt ⊢
  exact ⟨hs.cfg, hs.host, hs.energy, hs.reassembly, htransmit, hs.rxBuf, hptt⟩

theorem hostByteOp_runOk (b : Byte) (hs : RunOk s) : RunOk (hostByteOp b s) := by
  obtain ⟨hargs, -⟩ := Bool.and_eq_true_iff.mp hs.cfg
  obtain ⟨-, hdepth, -, -, -, -, -⟩ := (argsOk_iff _).mp hargs
  have hhost := hostByteOp_hostOk b hs.host
  have htransmit := hostByteOp_transmitOk b hdepth hs.host hs.transmit
  rw [hostByteOp_frame] at hhost htransmit ⊢
  exact ⟨hs.cfg, hhost, hs.energy, hs.reassembly, htransmit, hs.rxBuf, hs.lastPtt⟩

theorem cancel_runOk (hs : RunOk s) : RunOk (cancel s) := by
  have htransmit := cancel_transmitOk hs.transmit
  rw [cancel_eq] at htransmit ⊢
  exact ⟨hs.cfg, hs.host, hs.energy, hs.reassembly, htransmit, hs.rxBuf, hs.lastPtt⟩

theorem reply_runOk (r : Reply) (hs : RunOk s) : RunOk (s.reply r) :=
  ⟨hs.cfg, hs.host, hs.energy, hs.reassembly, hs.transmit, hs.rxBuf, hs.lastPtt⟩

/-- The state that a BOOT leaves in a running block is as R373 says. -/
theorem BootEffect.runOk {a : Args} (h : BootEffect a s t) (hf : t.fatal = none) : RunOk t := by
  obtain ⟨hcfg, htrace⟩ := h.running hf
  obtain ⟨-, hgeo⟩ := Bool.and_eq_true_iff.mp hcfg
  obtain ⟨-, -, -, hrx⟩ := (geometryOk_iff _).mp hgeo
  exact {
    cfg := hcfg
    host := by rw [h.frame]; exact hostOk_empty _ _
    energy := by rw [h.args, h.frame]; exact le_rfl
    reassembly := by rw [h.frame]; exact reassemblyOk_reset _
    transmit := by rw [h.frame]; exact transmitOk_idle (Nat.zero_le _) (by simp)
    rxBuf := by rw [h.frame]; exact hrx
    lastPtt := by rw [lastPtt_of_ptt (actions := []) htrace, h.frame]; rfl }

/-! The invariant of every reachable state. -/

/-- A BOOT that has a run establishes the invariant from any state (R371, R374, R375). -/
theorem BootEffect.inv {a : Args} (h : BootEffect a s t) : Inv t :=
  ⟨by rw [h.frame]; rfl, by rw [h.frame]; rfl, fun _ => by rw [h.frame]; rfl, h.runOk⟩

/-- Where an event runs, the block is not stopped and stays so. -/
theorem inv_of_extends (h : Extends s t) (hf : s.fatal = none) (hs : Inv s) (hptt : pttOk t)
    (hrun : RunOk s → RunOk t) : Inv t := by
  obtain ⟨hbooted, -, -, hrunning⟩ := hs
  exact ⟨h.booted.trans hbooted, hptt, fun hstopped => absurd (h.fatal.trans hf) hstopped,
    fun _ => hrun (hrunning hf)⟩

theorem Effect.inv {i : Instr} (h : Effect s i t) (hs : Inv s) : Inv t := by
  have hptt := h.pttOk hs.2.1
  cases h with
  | boot h => exact h.inv
  | held _ _ => exact hs
  | discarded _ _ => exact hs
  | received _ hf _ h => exact inv_of_extends h.toExtends hf hs hptt h.runOk
  | hostByte _ hf => exact inv_of_extends (hostByteOp_extends _ s) hf hs hptt (hostByteOp_runOk _)
  | txStep hf h => exact inv_of_extends h.toExtends hf hs hptt h.runOk
  | txCancel hf => exact inv_of_extends (cancel_extends s) hf hs hptt cancel_runOk
  | query r _ hf => exact inv_of_extends (reply_extends r s) hf hs hptt (reply_runOk r)

/-- The invariant does not look at the inputs that wait to be taken (log entry 1). -/
theorem inv_pending (pending : List Input) (hs : Inv s) : Inv { s with pending := pending } := by
  obtain ⟨hbooted, hptt, hstopped, hrun⟩ := hs
  refine ⟨hbooted, hptt, hstopped, fun hf => ?_⟩
  obtain ⟨hcfg, hhost, henergy, hreassembly, htransmit, hrx, hlast⟩ := hrun hf
  exact ⟨hcfg, hhost, henergy, hreassembly, htransmit, hrx, hlast⟩

/-- The reference configuration is one that the spec admits (R8, R10, R11, R31). -/
theorem cfgOk_reference : cfgOk Cfg.reference = true := by
  have hargs : argsOk Args.reference = true := by
    rw [argsOk_iff]
    refine ⟨by decide, by decide, ?_, ?_, ?_, by decide, by decide⟩ <;>
      norm_num [Args.reference]
  have hgeo : geometryOk Cfg.reference = true := by
    rw [geometryOk_iff]; decide
  exact Bool.and_eq_true_iff.mpr ⟨hargs, hgeo⟩

/-- The reset state is one that a BOOT of the reference configuration leaves (R59, R373; log entry 2). -/
theorem bootEffect_reset : BootEffect Args.reference State.reset State.reset :=
  ⟨rfl, rfl, fun _ => ⟨cfgOk_reference, rfl⟩⟩

end

/-- Settles O57: the reset state is the effect of a BOOT. -/
theorem resetKeepsTheRules : Obligations.ResetKeepsTheRules :=
  bootEffect_reset.inv

/-- Settles O58: a step holds the state or runs one instruction, and every effect of an instruction keeps the
invariant. -/
theorem stepKeepsInvariant : Obligations.StepKeepsInvariant := by
  intro s t hs h
  obtain rfl | ⟨i, rest, hi⟩ := step_next h
  · exact hs
  · exact (exec_effect hi).inv (inv_pending rest hs)

end Sys2Proof.Machine

/-! SUPPORT. A step runs the first input that need not wait (20_memory.md R80; 30_encoding.md R120). -/

namespace Sys2Proof.Machine

/-- An input that decodes waits exactly as its instruction does (R120). -/
theorem inputWaits_of_decode {s : State} {x : Input} {i : Instr} (h : decodeInput (decodeCtx s) x = .ok i) :
    inputWaits s x = waits i s := by
  rw [inputWaits, h]

/-- A step is settled by the first input that need not wait (log entries 1 and 5). -/
theorem step_of_firstReady {s : State} {x : Input} {rest : List Input} {i : Instr}
    (hfirst : firstReady s s.pending = some (x, rest)) (hdecode : decodeInput (decodeCtx s) x = .ok i) :
    step s = exec i { s with pending := rest } := by
  simp only [step, hfirst, hdecode]

/-- Settles O4: the inputs before `x` are passed over, so `x` is the one that the step takes. -/
theorem stepRunsDecodedInstruction : Obligations.StepRunsDecodedInstruction := by
  intro s before after x i hpending hbefore hdecode hready
  have hx : inputWaits s x = false := (inputWaits_of_decode hdecode).trans hready
  have hfirst : firstReady s s.pending = some (x, before ++ after) := by
    rw [hpending]; exact firstReady_append after hx before hbefore
  exact step_of_firstReady hfirst hdecode

end Sys2Proof.Machine

/-! SUPPORT. The frames that AirFramer.encode produces, one by one (43_air_framer.md R210 to R217). -/

namespace Sys2Proof.Machine

/-- `mkframe` over a header byte that stands already (R210): header, padded payload, CRC bytes. `mkFrame_eq` ties it to
the model. -/
def frameOfHeader (c : Cfg) (header : Byte) (data : List Byte) : Frame :=
  let body := header :: (data ++ List.replicate (airP c - data.length) 0)
  body ++ crcBytes c.crcOrder (crc16 c body)

section
variable {c : Cfg} {p : Packet} {k j : Nat}

theorem mkFrame_eq (kind : AirKind) (fld : Nat) (data : List Byte) :
    mkFrame c kind fld data = frameOfHeader c (airHeader c.tags kind (BitVec.ofNat 6 fld)) data := rfl

/-- Header and padded payload are the `F - 2` bytes that the CRC covers (R110, R116). -/
theorem length_header_payload {data : List Byte} (header : Byte) (hF : 4 ≤ airF c) (hdata : data.length ≤ airP c) :
    (header :: (data ++ List.replicate (airP c - data.length) 0)).length = airF c - 2 := by
  have hP : airP c = airF c - 3 := rfl
  simp only [List.length_cons, List.length_append, List.length_replicate]
  omega

theorem length_payloadOf_le (j : Nat) : (payloadOf c p j).length ≤ airP c := List.length_take_le _ _

/-- A payload that reaches the end of the packet is all that is left of it (R214, R217). -/
theorem payloadOf_eq_drop (h : p.length ≤ (j + 1) * airP c) : payloadOf c p j = p.drop (j * airP c) := by
  rw [Nat.add_one_mul] at h
  exact List.take_of_length_le (by rw [List.length_drop]; omega)

/-! The number of frames (R212). -/

theorem length_multiFrames (hk : 2 ≤ k) : (multiFrames c p k).length = k := by
  simp only [multiFrames, fragFrames, List.length_cons, List.length_append, List.length_map, List.length_range,
    List.length_nil]
  omega

/-- A packet longer than one payload needs two frames or more. -/
theorem two_le_ceilDiv {n d : Nat} (hd : 0 < d) (h : d < n) : 2 ≤ ceilDiv n d := by
  by_contra hlt
  have hone : n ≤ d * 1 := (ceilDiv_le_iff hd 1).mp (by omega)
  omega

/-- The `ceil(n / d)` payloads hold `n` bytes, and one less does not (R15). -/
theorem ceilDiv_bounds {n d : Nat} (hd : 0 < d) (hn : 0 < n) :
    (ceilDiv n d - 1) * d < n ∧ n ≤ ceilDiv n d * d := by
  have hcover : n ≤ d * ceilDiv n d := (ceilDiv_le_iff hd _).mp le_rfl
  have hpos : ceilDiv n d ≠ 0 := fun h0 => by rw [h0] at hcover; omega
  have hleast : ¬ n ≤ d * (ceilDiv n d - 1) := fun h => by
    have := (ceilDiv_le_iff hd _).mpr h
    omega
  exact ⟨by rw [Nat.mul_comm]; omega, by rwa [Nat.mul_comm]⟩

/-! Each of `k` frames is its header over its payload (R215 to R217). -/

theorem getElem?_multiFrames_begin :
    (multiFrames c p k)[0]? = some (frameOfHeader c (multiHeader c p.length k 0) (payloadOf c p 0)) := rfl

theorem getElem?_multiFrames_frag (h : j + 2 < k) : (multiFrames c p k)[j + 1]? =
    some (frameOfHeader c (multiHeader c p.length k (j + 1)) (payloadOf c p (j + 1))) := by
  have hfrag : (fragFrames c p k)[j]? = some (mkFrame c .frag (k - 2 - j) (fragment c p (j + 1))) := by
    rw [fragFrames, List.getElem?_map, List.getElem?_range (by omega)]; rfl
  have hheader : multiHeader c p.length k (j + 1) = airHeader c.tags .frag (BitVec.ofNat 6 (k - 2 - j)) := by
    rw [multiHeader, if_neg (Nat.succ_ne_zero j), if_pos h, show k - 1 - (j + 1) = k - 2 - j by omega]
  have hlt : j < (fragFrames c p k).length := by simp only [fragFrames, List.length_map, List.length_range]; omega
  rw [multiFrames, List.getElem?_cons_succ, List.getElem?_append_left hlt, hfrag, hheader, mkFrame_eq]
  rfl

theorem getElem?_multiFrames_end (hk : 2 ≤ k) (hcover : p.length ≤ k * airP c) : (multiFrames c p k)[k - 1]? =
    some (frameOfHeader c (multiHeader c p.length k (k - 1)) (payloadOf c p (k - 1))) := by
  have hheader : multiHeader c p.length k (k - 1)
      = airHeader c.tags .end1 (BitVec.ofNat 6 (p.length - (k - 1) * airP c)) := by
    rw [multiHeader, if_neg (by omega), if_neg (by omega)]
  have hpayload : payloadOf c p (k - 1) = p.drop ((k - 1) * airP c) :=
    payloadOf_eq_drop (by rwa [Nat.sub_add_cancel (by omega)])
  have hlen : (fragFrames c p k).length = k - 2 := by simp only [fragFrames, List.length_map, List.length_range]
  rw [hheader, hpayload, ← mkFrame_eq, multiFrames, show k - 1 = (k - 2) + 1 by omega, List.getElem?_cons_succ,
    List.getElem?_append_right hlen.le, hlen, Nat.sub_self]
  rfl

/-- The frames of a packet that `k` of them hold: BEGIN, FRAGs and END, each over its payload. -/
theorem getElem?_multiFrames (hk : 2 ≤ k) (hcover : p.length ≤ k * airP c) (hj : j < k) : (multiFrames c p k)[j]? =
    some (frameOfHeader c (multiHeader c p.length k j) (payloadOf c p j)) := by
  obtain rfl | hlast := Nat.eq_or_lt_of_le (Nat.le_sub_one_of_lt hj)
  · exact getElem?_multiFrames_end hk hcover
  · cases j with
    | zero => exact getElem?_multiFrames_begin
    | succ j => exact getElem?_multiFrames_frag (by omega)

/-! The two outcomes of the encoder where it is defined (R212, R214). -/

/-- A packet of one payload is one SINGLE (R214). -/
theorem airEncode_single (h : p.length ≤ airP c) : airEncode c p =
    some [frameOfHeader c (airHeader c.tags .single (BitVec.ofNat 6 p.length)) (payloadOf c p 0)] := by
  have hfits : ¬ maxPacketAir c < p.length := by rw [maxPacketAir]; omega
  have hpayload : payloadOf c p 0 = p := by
    rw [payloadOf_eq_drop (by omega), Nat.zero_mul, List.drop_zero]
  rw [airEncode, if_neg hfits, if_pos h, hpayload, mkFrame_eq]

/-- A longer packet is `ceil(n / P)` frames (R215). -/
theorem airEncode_multi (hlong : airP c < p.length) (hfits : p.length ≤ 64 * airP c) :
    airEncode c p = some (multiFrames c p (ceilDiv p.length (airP c))) := by
  rw [airEncode, maxPacketAir, if_neg (Nat.not_lt.mpr hfits), if_neg (Nat.not_le.mpr hlong)]

end

/-- Settles O34: the frames of `airEncode_single` or of `airEncode_multi`, counted by `ceilDiv_bounds`. -/
theorem airEncodeFrames : Obligations.AirEncodeFrames := by
  intro c p hcfg
  obtain ⟨-, hgeo⟩ := Bool.and_eq_true_iff.mp hcfg
  obtain ⟨hF, -, -, -⟩ := (geometryOk_iff c).mp hgeo
  have hP : 0 < airP c := by rw [airP]; omega
  refine ⟨(airEncode_eq_none c p).mpr, fun hfits => ?_⟩
  by_cases hshort : p.length ≤ airP c
  · refine ⟨_, airEncode_single hshort, ?_⟩
    rw [List.length_singleton]
    refine ⟨le_rfl, by omega, fun _ => rfl, fun hlong => absurd hshort (Nat.not_le.mpr hlong), fun j hj => ?_⟩
    obtain rfl : j = 0 := Nat.lt_one_iff.mp hj
    exact ⟨length_header_payload _ hF (length_payloadOf_le 0), rfl⟩
  · have hlong : airP c < p.length := Nat.lt_of_not_le hshort
    have hk : 2 ≤ ceilDiv p.length (airP c) := two_le_ceilDiv hP hlong
    obtain ⟨hleast, hcover⟩ := ceilDiv_bounds hP (n := p.length) (by omega)
    have hmost : ceilDiv p.length (airP c) ≤ 64 := (ceilDiv_le_iff hP 64).mpr (by omega)
    refine ⟨_, airEncode_multi hlong hfits, ?_⟩
    rw [length_multiFrames hk]
    refine ⟨by omega, hmost, fun h => absurd h hshort, fun _ => ⟨hleast, hcover⟩, fun j hj => ?_⟩
    rw [if_neg (by omega), getElem?_multiFrames hk hcover hj]
    exact ⟨length_header_payload _ hF (length_payloadOf_le j), rfl⟩

end Sys2Proof.Machine

/-! SUPPORT. The three encodings read both ways (30_encoding.md R101, R103, R111, R112, R121). -/

namespace Sys2Proof.Machine

/-! Packed events (R121): the digits and the operand of each form are determined by the event. -/

/-- The two digits of HOST_BYTE are the halves of its byte. -/
theorem highDigit_append_lowDigit (b : Byte) : b.extractLsb' 4 4 ++ b.extractLsb' 0 4 = b :=
  (BitVec.extractLsb'_append_extractLsb'_eq_extractLsb' (start₁ := 0) (len₁ := 4) rfl).trans BitVec.extractLsb'_eq_self

theorem bareEvent_eq_ok {rest : List Nibble} {oob : Oob} {i j : Instr} (h : bareEvent rest oob i = .ok j) :
    rest = [] ∧ oob = .nothing ∧ j = i := by
  unfold bareEvent at h
  split at h
  · split at h
    · rename_i hoob
      injection h with h
      exact ⟨rfl, hoob, h.symm⟩
    · cases h
  · cases h

theorem bootEvent_eq_ok {rest : List Nibble} {oob : Oob} {j : Instr} (h : bootEvent rest oob = .ok j) :
    ∃ a, rest = [] ∧ oob = .args a ∧ j = .boot a := by
  unfold bootEvent at h
  split at h
  · split at h
    · injection h with h
      exact ⟨_, rfl, rfl, h.symm⟩
    · cases h
  · cases h

theorem rxBlockEvent_eq_ok {rest : List Nibble} {oob : Oob} {j : Instr} (h : rxBlockEvent rest oob = .ok j) :
    ∃ blk, rest = [] ∧ oob = .samples blk ∧ j = .rxBlock blk := by
  unfold rxBlockEvent at h
  split at h
  · split at h
    · injection h with h
      exact ⟨_, rfl, rfl, h.symm⟩
    · cases h
  · cases h

theorem hostByteEvent_eq_ok {rest : List Nibble} {oob : Oob} {j : Instr} (h : hostByteEvent rest oob = .ok j) :
    ∃ hi lo, rest = [hi, lo] ∧ oob = .nothing ∧ j = .hostByte (hi ++ lo) := by
  unfold hostByteEvent at h
  split at h
  · split at h
    · rename_i hoob
      injection h with h
      exact ⟨_, _, rfl, hoob, h.symm⟩
    · cases h
  · cases h

/-- The code and its operands in the order of R121: what a packed event decodes to has that event as its encoding. -/
theorem encode_of_decodeEvent (t : Tags) {digits : List Nibble} {oob : Oob} {i : Instr}
    (h : decodeEvent digits oob = .ok i) : encode t i = .event digits oob := by
  unfold decodeEvent at h
  split at h
  · cases h
  · split_ifs at h with h0 h1 h2 h3 h4 h5 h6
    · obtain ⟨a, rfl, rfl, rfl⟩ := bootEvent_eq_ok h
      rw [h0, encode]
    · obtain ⟨hi, lo, rfl, rfl, rfl⟩ := hostByteEvent_eq_ok h
      rw [h1, encode, BitVec.extractLsb'_append_eq_left, BitVec.extractLsb'_append_eq_right]
    · obtain ⟨rfl, rfl, rfl⟩ := bareEvent_eq_ok h
      rw [h2, encode]
    · obtain ⟨rfl, rfl, rfl⟩ := bareEvent_eq_ok h
      rw [h3, encode]
    · obtain ⟨blk, rfl, rfl, rfl⟩ := rxBlockEvent_eq_ok h
      rw [h4, encode]
    · obtain ⟨rfl, rfl, rfl⟩ := bareEvent_eq_ok h
      rw [h5, encode]
    · obtain ⟨rfl, rfl, rfl⟩ := bareEvent_eq_ok h
      rw [h6, encode]

/-- The codes 0x7 to 0xF are none of the seven that R121 gives. -/
theorem decodeEvent_unusedCode {code : Nibble} (hcode : 7 ≤ code.toNat) (digits : List Nibble) (oob : Oob) :
    decodeEvent (code :: digits) oob = .error .unusedCode := by
  have hne : ∀ used : Nibble, used.toNat < 7 → code ≠ used := by
    rintro used hused rfl
    omega
  simp only [decodeEvent, hne 0 (by decide), hne 1 (by decide), hne 2 (by decide), hne 3 (by decide),
    hne 4 (by decide), hne 5 (by decide), hne 6 (by decide), if_false]

/-! Host wire bytes (R103): each class is the reading of its bytes, and encodes to the byte that was read. -/

theorem decodeWire_delim (escape : Bool) : decodeWire escape DELIM = .hostDelim := rfl

theorem decodeWire_esc : decodeWire false ESC = .hostEsc := rfl

theorem decodeWire_escaped {b : Byte} (hdelim : b ≠ DELIM) : decodeWire true b = .hostEscaped b := by
  rw [decodeWire, if_neg hdelim, if_pos rfl]

theorem decodeWire_data {b : Byte} (hdelim : b ≠ DELIM) (hesc : b ≠ ESC) : decodeWire false b = .hostData b := by
  rw [decodeWire, if_neg hdelim, if_neg Bool.false_ne_true, if_neg hesc]

theorem encode_decodeWire (t : Tags) (escape : Bool) (b : Byte) : encode t (decodeWire escape b) = .wire b := by
  unfold decodeWire
  split_ifs with hdelim _ hesc
  · rw [encode, hdelim]
  · rw [encode]
  · rw [encode, hesc]
  · rw [encode]

/-! Air frames (R111, R112): the kind and the field are the two parts of the header. -/

theorem encode_airInstr (t : Tags) (k : AirKind) (f : Field) (rest : List Byte) (blk : List Sample) :
    encode t (airInstr k f rest blk) = .air (airHeader t k f) rest blk := by
  cases k <;> rfl

theorem decodeAir_eq (t : Tags) (header : Byte) (rest : List Byte) (blk : List Sample) :
    decodeAir t header rest blk = airInstr (kindOfTag t (headerTag header)) (headerField header) rest blk := by
  unfold decodeAir
  cases kindOfTag t (headerTag header) <;> rfl

/-- "Four distinct codes leave no fifth" (R115), so the kind that a code names has that code. -/
theorem tagOfKind_kindOfTag {t : Tags} (ht : t.distinct = true) (code : BitVec 2) :
    tagOfKind t (kindOfTag t code) = code := by
  obtain ⟨single, begin1, frag, end1⟩ := t
  decide +revert

theorem airHeader_tag_field (t : Tags) (ht : t.distinct = true) (header : Byte) :
    airHeader t (kindOfTag t (headerTag header)) (headerField header) = header := by
  rw [airHeader, tagOfKind_kindOfTag ht]
  exact (BitVec.extractLsb'_append_extractLsb'_eq_extractLsb' (start₁ := 0) (len₁ := 6) rfl).trans
    BitVec.extractLsb'_eq_self

theorem decodeInput_encode_airInstr {c : DecodeCtx} (hc : c.tags.distinct = true) (k : AirKind) (f : Field)
    (rest : List Byte) (blk : List Sample) :
    decodeInput c (encode c.tags (airInstr k f rest blk)) = .ok (airInstr k f rest blk) := by
  rw [encode_airInstr, decodeInput, decodeAir_eq, airHeader_tag, kindOfTag_tagOfKind hc, airHeader_field]

/-- Settles O1, row by row of the table: the events by their codes, the byte classes by the priorities of R103, and the
air frames, all four kinds at once, by the two parts of the header. -/
theorem decodeOfEncode : Obligations.DecodeOfEncode := by
  rintro ⟨tags, escape⟩ i hc hwf
  cases i with
  | boot a => rfl
  | rxBlock blk => rfl
  | hostByte b => exact congrArg (fun b => Except.ok (Instr.hostByte b)) (highDigit_append_lowDigit b)
  | txStep | txCancel | mayTx | pttStatus => rfl
  | hostDelim => exact congrArg Except.ok (decodeWire_delim escape)
  | hostEsc =>
    obtain rfl : escape = false := by simpa [Instr.wf] using hwf
    exact congrArg Except.ok decodeWire_esc
  | hostEscaped b =>
    obtain ⟨rfl, hdelim⟩ : escape = true ∧ b ≠ 0x7E := by simpa [Instr.wf] using hwf
    exact congrArg Except.ok (decodeWire_escaped hdelim)
  | hostData b =>
    obtain ⟨⟨rfl, hdelim⟩, hesc⟩ : (escape = false ∧ b ≠ 0x7E) ∧ b ≠ 0x7D := by simpa [Instr.wf] using hwf
    exact congrArg Except.ok (decodeWire_data hdelim hesc)
  | airSingle len rcv => exact decodeInput_encode_airInstr hc .single len rcv.rest rcv.blk
  | airBegin fid rcv => exact decodeInput_encode_airInstr hc .begin1 fid rcv.rest rcv.blk
  | airFrag fid rcv => exact decodeInput_encode_airInstr hc .frag fid rcv.rest rcv.blk
  | airEnd len rcv => exact decodeInput_encode_airInstr hc .end1 len rcv.rest rcv.blk

/-- Settles O2, one encoding after another. -/
theorem encodeOfDecode : Obligations.EncodeOfDecode := by
  intro c x i hc h
  cases x with
  | event digits oob => exact encode_of_decodeEvent c.tags h
  | wire b =>
    injection h with h
    rw [← h, encode_decodeWire]
  | air header rest blk =>
    injection h with h
    rw [← h, decodeAir_eq, encode_airInstr, airHeader_tag_field _ hc]

/-- Settles O3: each word is read by the priorities of log entry 13 and decoded on the channel they name. -/
theorem tableWordsDecode : Obligations.TableWordsDecode :=
  ⟨rfl, rfl, rfl, rfl, rfl, rfl, rfl, rfl, rfl, rfl, rfl⟩

/-- A malformed input holds nothing back: the step takes it, and refuses it (R121). -/
theorem step_of_decode_error {s : State} {x : Input} {after : List Input} {e : DecodeError}
    (hpending : s.pending = x :: after) (hdecode : decodeInput (decodeCtx s) x = .error e) :
    step s = .refused (.notAnInstruction e) := by
  have hready : inputWaits s x = false := by rw [inputWaits, hdecode]
  have hfirst : firstReady s s.pending = some (x, after) := by
    rw [hpending, firstReady, if_neg (by rw [hready]; exact Bool.false_ne_true)]
  simp only [step, hfirst, hdecode]

/-- Settles O7: the malformed event does not wait, so it is the input that the step takes. -/
theorem unusedEventCodesRefused : Obligations.UnusedEventCodesRefused := by
  intro s code digits oob after hcode hpending
  exact step_of_decode_error hpending (decodeEvent_unusedCode hcode digits oob)

end Sys2Proof.Machine

/-! SUPPORT. The byte classes are HOST_BYTE on their bytes, and the frame of the receive path (41_host_framer.md R141,
R147; 45_receive_sequencer.md R308). -/

namespace Sys2Proof.Machine

variable {s t : State} {i : Instr}

/-- HOST_BYTE and the byte classes wait for the same room in the queue (R145). -/
theorem enabled_of_wireByte {b : Byte} (hb : wireByte i = some b) (s : State) :
    enabled i s = enabled (.hostByte b) s := by
  have hready : ready i s = hostReady s := by cases i <;> cases hb <;> rfl
  rw [enabled, enabled, hready, ready]

/-- An instruction that carries a host byte does what HOST_BYTE does with it (R103). -/
theorem exec_eq_hostByte {b : Byte} (hb : wireByte i = some b) (s : State) : exec i s = exec (.hostByte b) s := by
  rw [exec_of_wireByte hb, exec_of_wireByte (i := .hostByte b) rfl, takeEvent, takeEvent, enabled_of_wireByte hb]

/-- Settles O19: all four classes carry the byte that HOST_BYTE is given. -/
theorem byteClassesAreHostBytes : Obligations.ByteClassesAreHostBytes := fun s _ =>
  ⟨exec_eq_hostByte rfl s, exec_eq_hostByte rfl s, exec_eq_hostByte rfl s, exec_eq_hostByte rfl s⟩

/-- An instruction of the receive agent is held or discarded, which changes nothing, or processes a block (R301,
R302). -/
theorem receive_next (hr : isReceive i) (h : exec i s = .next t) : t = s ∨ ∃ blk, RxEffect blk s t := by
  obtain ⟨blk, env, he⟩ := exec_of_isReceive hr s
  rw [he] at h
  obtain ⟨-, ⟨-, -, hrun⟩ | ⟨-, rfl⟩⟩ := takeEvent_next h
  · split at hrun
    · injection hrun with hrun
      exact .inl hrun.symm
    · exact .inr ⟨blk, (rxProcess_effect hrun).of_env⟩
  · exact .inl rfl

/-- Settles O54: a processed block writes no more than `RxEffect` says. -/
theorem receivePathFrame : Obligations.ReceivePathFrame := by
  intro i s t h hr
  obtain rfl | ⟨blk, heffect⟩ := receive_next hr h
  · exact ⟨rfl, rfl, rfl, rfl, rfl, rfl⟩
  · rw [heffect.frame]
    exact ⟨rfl, rfl, rfl, rfl, rfl, rfl⟩

end Sys2Proof.Machine

/-! SUPPORT. How a received block moves the gate (42_channel_sense.md R181 to R187). -/

namespace Sys2Proof.Machine

variable {s t : State} {blk : List Sample}

/-! The energy of a block (R181, R122). -/

theorem blockEnergy_of_not_silent (h : ∃ x ∈ blk, x ≠ 0) : blockEnergy blk s = drawEnergy blk s := by
  have hall : ¬ blk.all (· = 0) = true := by simpa using h
  rw [blockEnergy, if_neg hall]

theorem drawEnergy_of_queued {e : Energy} {more : List Energy} (h : s.env.energy = e :: more) :
    (drawEnergy blk s).1 = e := by
  unfold drawEnergy
  rw [h]

theorem drawEnergy_of_nil (h : s.env.energy = []) : (drawEnergy blk s).1 = energyDb s.cfg blk := by
  unfold drawEnergy
  rw [h]

/-- The sum of the squares is the same over the magnitudes and over the reals. -/
theorem cast_sum_natAbs_sq (blk : List Sample) :
    (((blk.map fun x => x.toInt.natAbs ^ 2).sum : ℕ) : ℝ) = (blk.map fun x => (x.toInt : ℝ) ^ 2).sum := by
  induction blk with
  | nil => simp
  | cons x xs ih =>
    have hsq : ((x.toInt.natAbs : ℝ)) ^ 2 = (x.toInt : ℝ) ^ 2 := by rw [Nat.cast_natAbs, Int.cast_abs, sq_abs]
    simp only [List.map_cons, List.sum_cons, Nat.cast_add, Nat.cast_pow, ih, hsq]

/-- The default ENERGY_DB is the larger of the floor and the mean-square power in dB (R181). -/
theorem val_energyDb_meanSquare {c : Cfg} (h : c.energyFn = .meanSquare) (blk : List Sample) :
    (energyDb c blk).val = max c.floorDb.val
      (10 * Real.logb 10 ((blk.map fun x => (x.toInt : ℝ) ^ 2).sum / (blk.length * 32768 ^ 2))) := by
  simp only [energyDb, h, val_maxReal, val_meanSquareDb, dbValue, cast_sum_natAbs_sq, Nat.cast_mul, Nat.cast_pow,
    Nat.cast_ofNat]

/-! The three bands of the gate (R184 to R187). -/

section
variable {c : Cfg} {cs : ChannelEnergy} (n : Nat)

theorem gate_of_busy (h : c.upperDb.val < cs.smoothed.val) :
    gate c n cs = { cs with quiet := 0, allowed := false } := by
  simp only [gate, classify_eq, if_pos h]

theorem gate_of_quiet (hupper : cs.smoothed.val ≤ c.upperDb.val) (hlower : cs.smoothed.val < c.lowerDb.val) :
    gate c n cs =
      { cs with quiet := cs.quiet + n, allowed := if c.dwellSamples < cs.quiet + n then true else cs.allowed } := by
  simp only [gate, classify_eq, if_neg (not_lt.mpr hupper), if_pos hlower]

theorem gate_of_dead (hlower : c.lowerDb.val ≤ cs.smoothed.val) (hupper : cs.smoothed.val ≤ c.upperDb.val) :
    gate c n cs = cs := by
  simp only [gate, classify_eq, if_neg (not_lt.mpr hupper), if_neg (not_lt.mpr hlower)]

end

/-- A live, unkeyed block processes an RX_BLOCK (R300). -/
theorem exec_rxBlock (hlive : live s) (hkeyed : s.pttKeyed = false) (blk : List Sample) :
    exec (.rxBlock blk) s = rxProcess blk s := by
  have hrun : exec (.rxBlock blk) s = if s.pttKeyed then .next s else rxProcess blk s := by
    simp only [exec, execRxBlock]
    exact takeEvent_of_live hlive rfl
  rw [hrun, hkeyed, if_neg Bool.false_ne_true]

/-- The demodulation loop leaves the gate as ChannelSense.update made it. -/
theorem rxProcess_cs (h : rxProcess blk s = .next t) : ∃ u, csUpdate blk s = some u ∧ t.cs = u.cs := by
  unfold rxProcess at h
  split at h
  · cases h
  · rename_i u hu
    dsimp only at h
    split at h
    · cases h
    · rename_i v hloop
      injection h with h
      subst h
      obtain ⟨hframe, -⟩ := rxLoop_some _ { u with rxBuf := u.rxBuf ++ blk } v le_rfl hloop
      exact ⟨u, hu, by rw [hframe]⟩

/-- Settles O23: the energy by the cases of R181 and R122, the smoothing by its formula, and the gate by its bands. -/
theorem receivedBlockMovesGate : Obligations.ReceivedBlockMovesGate := by
  intro s t blk hlive hkeyed h
  rw [exec_rxBlock hlive hkeyed] at h
  obtain ⟨u, hu, hcs⟩ := rxProcess_cs h
  obtain ⟨-, hempty, hsensed⟩ := csUpdate_some hu
  rw [hcs]
  refine ⟨fun hblk => by rw [hempty hblk], fun hblk => ?_⟩
  obtain ⟨hfloor, -, hgate⟩ := hsensed hblk
  intro e
  have hsmoothed : u.cs.smoothed = smooth s.cfg e s.cs.smoothed := by rw [hgate, sense, gate_smoothed]
  rw [hsmoothed, hgate, sense]
  refine ⟨hfloor, blockEnergy_silent s blk, ?_, ?_, val_smooth _ _ _, ?_, ?_, ?_⟩
  · intro a more hsound hqueued
    exact (congrArg Prod.fst (blockEnergy_of_not_silent hsound)).trans (drawEnergy_of_queued hqueued)
  · intro hsound hnone hdefault
    have he : e = energyDb s.cfg blk :=
      (congrArg Prod.fst (blockEnergy_of_not_silent hsound)).trans (drawEnergy_of_nil hnone)
    rw [he, val_energyDb_meanSquare hdefault]
  · intro hbusy
    rw [gate_of_busy _ hbusy]
    exact ⟨rfl, rfl⟩
  · intro hupper hlower
    rw [gate_of_quiet _ hupper hlower]
    exact ⟨rfl, by simp only [Bool.if_true_left, Bool.or_eq_true, decide_eq_true_eq]⟩
  · intro hlower hupper
    rw [gate_of_dead _ hlower hupper]
    exact ⟨rfl, rfl⟩

end Sys2Proof.Machine

/-! SUPPORT. An air frame as an instruction: the RX_BLOCK that demodulates it (30_encoding.md R123;
45_receive_sequencer.md R302 to R305; 43_air_framer.md R220 to R230). -/

namespace Sys2Proof.Machine

section
variable {s t u v : State} {blk : List Sample}

/-! The four AIR rows are one operation on their frame (R123). -/

/-- The guard of R120 treats the rows as it treats RX_BLOCK. -/
theorem exec_airInstr (k : AirKind) (f : Field) (rest : List Byte) (blk : List Sample) (s : State) :
    exec (airInstr k f rest blk) s =
      takeEvent (.rxBlock blk) s fun s => rxFrame (airHeader s.cfg.tags k f :: rest) blk s := by
  cases k <;> rfl

theorem exec_airInstr_of_live (hlive : live s) (k : AirKind) (f : Field) (rest : List Byte) (blk : List Sample) :
    exec (airInstr k f rest blk) s = rxFrame (airHeader s.cfg.tags k f :: rest) blk s := by
  rw [exec_airInstr]
  exact takeEvent_of_live hlive rfl

theorem rxFrame_of_keyed (h : s.pttKeyed = true) (frame : Frame) : rxFrame frame blk s = .next s := by
  rw [rxFrame, if_pos h]

theorem rxFrame_of_unkeyed (h : s.pttKeyed = false) (frame : Frame) :
    rxFrame frame blk s = rxProcess blk (s.answerFrame blk.length frame) := by
  rw [rxFrame, h, if_neg Bool.false_ne_true]

theorem live_answerFrame (hlive : live s) (n : Nat) (frame : Frame) : live (s.answerFrame n frame) := hlive

/-- Settles O26: the row and the RX_BLOCK pass the same guard, and then process the same block. -/
theorem airFramesAreReceivedBlocks : Obligations.AirFramesAreReceivedBlocks := by
  intro s k f rest blk hlive
  rw [exec_airInstr_of_live hlive]
  refine ⟨fun hkeyed => rxFrame_of_keyed hkeyed _, fun hkeyed => ?_⟩
  rw [rxFrame_of_unkeyed hkeyed, exec_rxBlock (live_answerFrame hlive _ _) hkeyed]

/-! The demodulation loop, one pass at a time (R303, R304). -/

/-- Where the buffer is shorter than NIN the loop ends, whatever fuel is left. -/
theorem rxLoop_of_short (hok : ninOk s.cfg (drawNin s).1 = true) (hshort : s.rxBuf.length < (drawNin s).1) :
    ∀ fuel, rxLoop fuel s = some (drawNin s).2
  | 0 => by simp only [rxLoop, drawNin_cfg, hok, if_true]
  | _ + 1 => by simp only [rxLoop, drawNin_cfg, hok, if_true, drawNin_rxBuf, hshort]

/-- Where it is not, the loop goes on after one pass of its body. -/
theorem rxLoop_of_pass (hok : ninOk s.cfg (drawNin s).1 = true) (hlong : (drawNin s).1 ≤ s.rxBuf.length)
    (ht : demodulate (drawNin s).1 (drawNin s).2 = t) : rxLoop s.rxBuf.length s = rxLoop t.rxBuf.length t := by
  obtain ⟨hone, -⟩ := (ninOk_iff _ _).mp hok
  obtain ⟨fuel, hfuel⟩ : ∃ fuel, s.rxBuf.length = fuel + 1 := ⟨s.rxBuf.length - 1, by omega⟩
  have hbuf : t.rxBuf = s.rxBuf.drop (drawNin s).1 := by rw [← ht, demodulate_frame]; rfl
  have hcovers : t.rxBuf.length ≤ fuel := by rw [hbuf, List.length_drop]; omega
  calc rxLoop s.rxBuf.length s = rxLoop fuel t := by
        rw [hfuel]
        simp only [rxLoop, drawNin_cfg, hok, if_true, drawNin_rxBuf, if_neg (Nat.not_lt.mpr hlong), ht]
    _ = rxLoop t.rxBuf.length t := rxLoop_fuel _ _ t hcovers le_rfl

/-- An empty block only runs the loop (R182, R303). -/
theorem rxProcess_nil (s : State) : rxProcess [] s =
    (rxLoop s.rxBuf.length s).elim (.refused (.contract .nin)) .next := by
  simp only [rxProcess, csUpdate, if_true, List.append_nil]
  cases rxLoop s.rxBuf.length s <;> rfl

/-- A sensed block runs the loop on the buffer that it lengthens, as an empty block would from there. -/
theorem rxProcess_of_sensed (hu : csUpdate blk s = some u) :
    rxProcess blk s = rxProcess [] { u with rxBuf := u.rxBuf ++ blk } := by
  rw [rxProcess_nil]
  simp only [rxProcess, hu]
  cases rxLoop (u.rxBuf ++ blk).length { u with rxBuf := u.rxBuf ++ blk } <;> rfl

theorem rxProcess_nil_of_pass (hok : ninOk s.cfg (drawNin s).1 = true) (hlong : (drawNin s).1 ≤ s.rxBuf.length)
    (ht : demodulate (drawNin s).1 (drawNin s).2 = t) : rxProcess [] s = rxProcess [] t := by
  rw [rxProcess_nil, rxProcess_nil, rxLoop_of_pass hok hlong ht]

theorem rxProcess_nil_of_short (hok : ninOk s.cfg (drawNin s).1 = true)
    (hshort : s.rxBuf.length < (drawNin s).1) : rxProcess [] s = .next (drawNin s).2 := by
  rw [rxProcess_nil, rxLoop_of_short hok hshort, Option.elim_some]

/-- An answer of NIN outside its contract has no run (R362; log entry 7). -/
theorem rxProcess_nil_of_not_ninOk (hbad : ninOk s.cfg (drawNin s).1 = false) :
    rxProcess [] s = .refused (.contract .nin) := by
  have hloop : rxLoop s.rxBuf.length s = none := by
    cases s.rxBuf.length <;> simp only [rxLoop, drawNin_cfg, hbad, Bool.false_eq_true, if_false]
  rw [rxProcess_nil, hloop, Option.elim_none]

/-! The block of an RX_FRAME: its draws are its own length and its frame (R123). -/

theorem csUpdate_cfg (hu : csUpdate blk s = some u) : u.cfg = s.cfg := by rw [(csUpdate_some hu).1]

theorem csUpdate_rxBuf (hu : csUpdate blk s = some u) : u.rxBuf = s.rxBuf := by rw [(csUpdate_some hu).1]

theorem rxProcess_answerFrame_of_sensed (hu : csUpdate blk s = some u) (n : Nat) (frame : Frame) :
    rxProcess blk (s.answerFrame n frame) =
      rxProcess [] ({ u with rxBuf := s.rxBuf ++ blk }.answerFrame n frame) := by
  rw [← csUpdate_rxBuf hu]
  exact rxProcess_of_sensed (u := u.answerFrame n frame) (by rw [csUpdate_answerFrame, hu]; rfl)

/-- The first pass takes both answers: the oldest samples go, as many as the block has, and the frame is received. -/
theorem rxProcess_answerFrame (hu : csUpdate blk s = some u) (hok : ninOk s.cfg blk.length = true) (frame : Frame) :
    rxProcess blk (s.answerFrame blk.length frame) =
      rxProcess [] (receiveFrame frame { u with rxBuf := (s.rxBuf ++ blk).drop blk.length }) := by
  have hlong : blk.length ≤ (s.rxBuf ++ blk).length := by rw [List.length_append]; omega
  rw [← csUpdate_cfg hu] at hok
  rw [rxProcess_answerFrame_of_sensed hu]
  exact rxProcess_nil_of_pass (s := State.answerFrame { u with rxBuf := s.rxBuf ++ blk } blk.length frame) hok hlong rfl

/-- A block of a length that NIN cannot ask for has no run, whatever its frame. -/
theorem rxProcess_answerFrame_of_not_ninOk (hu : csUpdate blk s = some u) (hbad : ninOk s.cfg blk.length = false)
    (frame : Frame) : rxProcess blk (s.answerFrame blk.length frame) = .refused (.contract .nin) := by
  rw [← csUpdate_cfg hu] at hbad
  rw [rxProcess_answerFrame_of_sensed hu]
  exact rxProcess_nil_of_not_ninOk (s := State.answerFrame { u with rxBuf := s.rxBuf ++ blk } blk.length frame) hbad

end

end Sys2Proof.Machine

/-! SUPPORT. A frame that is the only one its RX_BLOCK demodulates (30_encoding.md R123; 43_air_framer.md R220 to
R230). -/

namespace Sys2Proof.Machine

section
variable {s u v : State} {blk : List Sample} {rest : List Byte}

/-! AirFramer.decode reads the header, checks the size and runs the operation of the kind (R220, R221). -/

/-- The operation of each kind on a frame of the right size. `airDecode_cons_eq` ties it to the model. -/
def airOp : AirKind → Field → List Byte → State → State × Option Packet
  | .single => airSingleOp
  | .begin1 => airBeginOp
  | .frag => airFragOp
  | .end1 => airEndOp

theorem airDecode_cons_eq (h : Byte) (rest : List Byte) (s : State) : airDecode (h :: rest) s =
    sizedFrame rest (airOp (kindOfTag s.cfg.tags (headerTag h)) (headerField h) rest) s := by
  simp only [airDecode]
  cases kindOfTag s.cfg.tags (headerTag h) <;> rfl

theorem sizedFrame_of_size (hsize : rest.length + 1 = airF s.cfg) (op : State → State × Option Packet) :
    sizedFrame rest op s = op s := by
  rw [sizedFrame, if_pos hsize]

theorem airDecode_airHeader (htags : s.cfg.tags.distinct = true) (hsize : rest.length + 1 = airF s.cfg) (k : AirKind)
    (f : Field) : airDecode (airHeader s.cfg.tags k f :: rest) s = airOp k f rest s := by
  rw [airDecode_cons_eq, sizedFrame_of_size hsize, airHeader_tag, airHeader_field, kindOfTag_tagOfKind htags]

/-- A byte list of another size is dropped before its header is looked at (R221). -/
theorem airDecode_of_badSize {frame : Frame} (hsize : frame.length ≠ airF s.cfg) :
    airDecode frame s = (s.raise (.badFrameSize frame.length), none) := by
  cases frame with
  | nil => exact if_neg hsize.symm
  | cons h rest => exact (airDecode_cons_eq h rest s).trans (if_neg hsize)

/-! The CRC is behind the `P` payload bytes, and no operation reads so far (R230). -/

theorem take_of_take_airP {c : Cfg} {r u : List Byte} (h : r.take (airP c) = u.take (airP c)) {n : Nat}
    (hn : n ≤ airP c) : r.take n = u.take n := by
  have htake : (r.take (airP c)).take n = (u.take (airP c)).take n := by rw [h]
  rwa [List.take_take, List.take_take, min_eq_left hn] at htake

theorem airOp_of_payload {r u : List Byte} (h : r.take (airP s.cfg) = u.take (airP s.cfg)) (k : AirKind) (f : Field) :
    airOp k f r s = airOp k f u s := by
  cases k with
  | single =>
    simp only [airOp, airSingleOp]
    split
    · rfl
    · rename_i hlen
      rw [take_of_take_airP h (Nat.le_of_not_lt hlen)]
  | begin1 => simp only [airOp, airBeginOp, h]
  | frag => simp only [airOp, airFragOp, h]
  | end1 =>
    simp only [airOp, airEndOp]
    split
    · rfl
    · rename_i hlen
      rw [take_of_take_airP h (Nat.le_of_not_lt hlen)]

theorem airDecode_of_payload {r u : List Byte} (hr : r.length + 1 = airF s.cfg) (hu : u.length + 1 = airF s.cfg)
    (h : r.take (airP s.cfg) = u.take (airP s.cfg)) (header : Byte) :
    airDecode (header :: r) s = airDecode (header :: u) s := by
  rw [airDecode_cons_eq, airDecode_cons_eq, sizedFrame_of_size hr, sizedFrame_of_size hu, airOp_of_payload h]

/-- Two frames that are decoded alike have the same effect as the frame of one RX_FRAME, also where it has no run. -/
theorem rxFrame_congr {f g : Frame}
    (h : ∀ t : State, t.cfg = s.cfg → airDecode f t = airDecode g t) : rxFrame f blk s = rxFrame g blk s := by
  cases hkeyed : s.pttKeyed with
  | true => rw [rxFrame_of_keyed hkeyed, rxFrame_of_keyed hkeyed]
  | false =>
    rw [rxFrame_of_unkeyed hkeyed, rxFrame_of_unkeyed hkeyed]
    cases hu : csUpdate blk s with
    | none => simp only [rxProcess, csUpdate_answerFrame, hu, Option.map_none]
    | some u =>
      have hcfg : u.cfg = s.cfg := csUpdate_cfg hu
      cases hok : ninOk s.cfg blk.length with
      | false => rw [rxProcess_answerFrame_of_not_ninOk hu hok, rxProcess_answerFrame_of_not_ninOk hu hok]
      | true =>
        rw [rxProcess_answerFrame hu hok, rxProcess_answerFrame hu hok, receiveFrame, receiveFrame,
          h { u with rxBuf := (s.rxBuf ++ blk).drop blk.length } hcfg]

/-! The frame operations neither read nor write the queued answers. -/

/-- `op` passes the queued answers and the counter of free values through. -/
def ignoresAnswers (op : State → State × Option Packet) : Prop :=
  ∀ (s : State) (e : Env) (n : Nat),
    op { s with env := e, drawn := n } = ({ (op s).1 with env := e, drawn := n }, (op s).2)

theorem airOp_ignoresAnswers (k : AirKind) (f : Field) (rest : List Byte) : ignoresAnswers (airOp k f rest) := by
  intro s e n
  cases k with
  | single =>
    simp only [airOp, airSingleOp]
    split <;> rfl
  | begin1 => rfl
  | frag =>
    simp only [airOp, airFragOp]
    split <;> rfl
  | end1 =>
    simp only [airOp, airEndOp]
    split
    · rfl
    · split <;> rfl

theorem airDecode_ignoresAnswers (frame : Frame) : ignoresAnswers (airDecode frame) := by
  intro s e n
  by_cases hsize : frame.length = airF s.cfg
  · cases frame with
    | nil =>
      have hF : airF s.cfg = 0 := hsize.symm
      simp only [airDecode, hF, if_true]
    | cons h rest =>
      rw [airDecode_cons_eq, airDecode_cons_eq, sizedFrame_of_size hsize,
        sizedFrame_of_size (s := { s with env := e, drawn := n }) hsize]
      exact airOp_ignoresAnswers _ _ _ s e n
  · rw [airDecode_of_badSize hsize, airDecode_of_badSize (s := { s with env := e, drawn := n }) hsize]
    rfl

theorem receiveFrame_of_answers (frame : Frame) (s : State) (e : Env) (n : Nat) :
    receiveFrame frame { s with env := e, drawn := n } = { receiveFrame frame s with env := e, drawn := n } := by
  rw [receiveFrame, receiveFrame, airDecode_ignoresAnswers]
  unfold forward
  cases (airDecode frame s).2 <;> rfl

theorem receiveFrame_cfg (frame : Frame) (s : State) : (receiveFrame frame s).cfg = s.cfg := by
  rw [(receiveFrame_result frame).1]

theorem receiveFrame_rxBuf (frame : Frame) (s : State) : (receiveFrame frame s).rxBuf = s.rxBuf := by
  rw [(receiveFrame_result frame).1]

/-- A draw of NIN after a frame is the draw before it. -/
theorem drawNin_receiveFrame (frame : Frame) (s : State) :
    drawNin (receiveFrame frame s) = ((drawNin s).1, receiveFrame frame (drawNin s).2) := by
  obtain ⟨hframe, -, -⟩ := receiveFrame_result (s := s) frame
  have hafter : drawNin (receiveFrame frame s) =
      ((drawNin s).1, { receiveFrame frame s with env := (drawNin s).2.env, drawn := (drawNin s).2.drawn }) := by
    rw [hframe]; rfl
  rw [hafter, ← receiveFrame_of_answers, ← drawNin_frame]

/-! A single frame (`OneFrame`). -/

/-- What the draws and the sensing of the block leave of the state. -/
theorem OneFrame.afterFrame_eq (h : OneFrame s u v blk) : afterFrame s v blk =
    { s with cs := v.cs, rxBuf := (s.rxBuf ++ blk).drop blk.length, env := v.env, drawn := v.drawn } := by
  obtain ⟨hu, -, -⟩ := csUpdate_some h.sensed
  rw [afterFrame, ← h.drawn, drawNin_frame, hu]

theorem OneFrame.afterFrame_cfg (h : OneFrame s u v blk) : (afterFrame s v blk).cfg = s.cfg := by
  rw [h.afterFrame_eq]

theorem OneFrame.afterFrame_af (h : OneFrame s u v blk) : (afterFrame s v blk).af = s.af := by
  rw [h.afterFrame_eq]

theorem OneFrame.afterFrame_log (h : OneFrame s u v blk) : (afterFrame s v blk).log = s.log := by
  rw [h.afterFrame_eq]

theorem OneFrame.afterFrame_hostOut (h : OneFrame s u v blk) : (afterFrame s v blk).hostOut = s.hostOut := by
  rw [h.afterFrame_eq]

/-- The first pass receives the frame, and the second finds the buffer too short (R303 to R305). -/
theorem OneFrame.rxProcess_eq (h : OneFrame s u v blk) (frame : Frame) :
    rxProcess blk (s.answerFrame blk.length frame) = .next (receiveFrame frame (afterFrame s v blk)) := by
  have hok : ninOk s.cfg blk.length = true := (ninOk_iff _ _).mpr ⟨h.least, h.most⟩
  have hafter : (drawNin { u with rxBuf := (s.rxBuf ++ blk).drop blk.length }).2 = afterFrame s v blk := by
    rw [afterFrame, ← h.drawn]; rfl
  have hadmitted : ninOk u.cfg (drawNin u).1 = true := by rw [csUpdate_cfg h.sensed]; exact h.admitted
  have hdraw := drawNin_receiveFrame frame { u with rxBuf := (s.rxBuf ++ blk).drop blk.length }
  rw [rxProcess_answerFrame h.sensed hok, rxProcess_nil_of_short, hdraw, hafter]
  · rw [hdraw, receiveFrame_cfg]
    exact hadmitted
  · rw [hdraw, receiveFrame_rxBuf, List.length_drop, List.length_append, Nat.add_sub_cancel]
    exact h.waits

theorem OneFrame.exec_rxBlock_eq (h : OneFrame s u v blk) (frame : Frame) :
    exec (.rxBlock blk) (s.answerFrame blk.length frame) = .next (receiveFrame frame (afterFrame s v blk)) :=
  (exec_rxBlock (live_answerFrame h.live _ _) h.unkeyed blk).trans (h.rxProcess_eq frame)

theorem OneFrame.exec_airInstr_eq (h : OneFrame s u v blk) (k : AirKind) (f : Field) (rest : List Byte) :
    exec (airInstr k f rest blk) s =
      .next (receiveFrame (airHeader s.cfg.tags k f :: rest) (afterFrame s v blk)) := by
  rw [exec_airInstr_of_live h.live, rxFrame_of_unkeyed h.unkeyed, h.rxProcess_eq]

/-- An air row with a frame of the right size runs the operation of its kind and forwards what it completes. -/
theorem OneFrame.exec_of_size (h : OneFrame s u v blk) (hsize : rest.length + 1 = airF s.cfg) (k : AirKind)
    (f : Field) : exec (airInstr k f rest blk) s = .next (forward (airOp k f rest (afterFrame s v blk))) := by
  have hcfg := h.afterFrame_cfg
  rw [h.exec_airInstr_eq, receiveFrame, ← hcfg, airDecode_airHeader]
  · rw [hcfg]; exact h.tags
  · rw [hcfg]; exact hsize

/-! The operations, branch by branch (R222 to R229). -/

theorem airSingleOp_of_le {len : Field} (hlen : len.toNat ≤ airP s.cfg) :
    airSingleOp len rest s = (s, some (rest.take len.toNat)) := by
  rw [airSingleOp, if_neg (Nat.not_lt.mpr hlen)]

theorem airSingleOp_of_lt {len : Field} (hlen : airP s.cfg < len.toNat) :
    airSingleOp len rest s = (s.raise (.badLength .single len.toNat), none) := by
  rw [airSingleOp, if_pos hlen]

theorem airEndOp_of_lt {len : Field} (hlen : airP s.cfg < len.toNat) :
    airEndOp len rest s = (afReset (s.raise (.badLength .end1 len.toNat)), none) := by
  rw [airEndOp, if_pos hlen]

theorem airEndOp_of_le {len : Field} (hlen : len.toNat ≤ airP s.cfg) : airEndOp len rest s =
    if s.af.inProgress ∧ s.af.lastId = 1 then (afReset s, some (s.af.acc ++ rest.take len.toNat))
    else (fragLoss .end1 0 s, none) := by
  rw [airEndOp, if_neg (Nat.not_lt.mpr hlen)]

theorem inProgress_iff (r : Reassembly) : r.inProgress = true ↔ r.lastTag = .begin1 ∨ r.lastTag = .frag := by
  simp [Reassembly.inProgress]

end

/-- Settles O27: an admitted length completes the packet, which is forwarded. -/
theorem singleFrameDelivers : Obligations.SingleFrameDelivers := by
  intro s u v len rcv h hsize hlen
  rw [← h.afterFrame_cfg] at hlen
  refine (h.exec_of_size hsize .single len).trans ?_
  rw [airOp, airSingleOp_of_le hlen, ← h.afterFrame_hostOut]
  rfl

/-- Settles O28: a BEGIN completes no packet, so nothing is forwarded. -/
theorem beginFrameRestarts : Obligations.BeginFrameRestarts := by
  intro s u v fid rcv h hsize
  refine (h.exec_of_size hsize .begin1 fid).trans ?_
  rw [← h.afterFrame_cfg]
  rfl

/-- Settles O29: the countdown of the statement is that of the operation; id 0 has no successor in either. -/
theorem fragFrameCountsDown : Obligations.FragFrameCountsDown := by
  intro s u v fid rcv h hsize
  have hcountdown : (fid.toNat : Int) = (s.af.lastId.toNat : Int) - 1 ↔ fid.toNat + 1 = s.af.lastId.toNat := by omega
  refine (h.exec_of_size hsize .frag fid).trans ?_
  simp only [hcountdown, ← inProgress_iff]
  rw [← h.afterFrame_af, ← h.afterFrame_log, ← h.afterFrame_cfg, airOp, airFragOp]
  split <;> rfl

/-- Settles O30, by the sequence check, which an admitted length leaves to decide. -/
theorem endFrameCompletesOrResets : Obligations.EndFrameCompletesOrResets := by
  intro s u v len rcv h hsize hlen
  rw [← h.afterFrame_cfg] at hlen
  refine (h.exec_of_size hsize .end1 len).trans ?_
  simp only [← inProgress_iff]
  rw [← h.afterFrame_af, ← h.afterFrame_log, ← h.afterFrame_hostOut, airOp, airEndOp_of_le hlen]
  split <;> rfl

/-- Settles O31: in both operations the length is checked first. -/
theorem lengthAbovePayloadDropped : Obligations.LengthAbovePayloadDropped := by
  intro s u v len rcv h hsize hlen
  rw [← h.afterFrame_cfg] at hlen
  refine ⟨(h.exec_of_size hsize .single len).trans ?_, (h.exec_of_size hsize .end1 len).trans ?_⟩
  · rw [airOp, airSingleOp_of_lt hlen, ← h.afterFrame_log]
    rfl
  · rw [airOp, airEndOp_of_lt hlen, ← h.afterFrame_log]
    rfl

/-- Settles O32: the size is checked before anything else, whether DEMOD answers a trace or an air row. -/
theorem wrongFrameSizeDropped : Obligations.WrongFrameSizeDropped := by
  intro s u v blk h
  have hdropped : ∀ frame : Frame, frame.length ≠ airF s.cfg → receiveFrame frame (afterFrame s v blk) =
      { afterFrame s v blk with log := s.log ++ [.badFrameSize frame.length] } := by
    intro frame hsize
    rw [← h.afterFrame_cfg] at hsize
    rw [receiveFrame, airDecode_of_badSize hsize, ← h.afterFrame_log]
    rfl
  refine ⟨fun frame hsize => ?_, fun k f rest hsize => ?_⟩
  · rw [h.exec_rxBlock_eq, hdropped frame hsize]
  · rw [h.exec_airInstr_eq, hdropped (_ :: rest) hsize]
    rfl

/-- Settles O33: the event is held, refused or discarded for both frames alike, and where it runs the frame is the first
that DEMOD yields. -/
theorem crcIsNotChecked : Obligations.CrcIsNotChecked := by
  intro s k f r u blk hr hu hpayload
  rw [exec_airInstr, exec_airInstr, takeEvent, takeEvent, rxFrame_congr]
  intro t hcfg
  rw [← hcfg] at hr hu hpayload
  exact airDecode_of_payload hr hu hpayload _

end Sys2Proof.Machine

/-! SUPPORT. What a host byte does in each state of the decoder (41_host_framer.md R140 to R147), and the events that
wait (30_encoding.md R120). -/

namespace Sys2Proof.Machine

section
variable {s : State} {i : Instr} {b : Byte}

/-! The events that wait (R145, R261; log entry 5). -/

theorem takeEvent_of_not_enabled (hbooted : s.booted = true) (h : enabled i s = false) (k : State → Result) :
    takeEvent i s k = .next s := by
  rw [takeEvent, if_pos hbooted, h, if_neg Bool.false_ne_true]

theorem enabled_of_not_ready (h : ready i s = false) : enabled i s = false := by
  rw [enabled, h, Bool.and_false]

theorem waits_of_not_enabled (hi : ∀ a, i ≠ .boot a) (hbooted : s.booted = true) (h : enabled i s = false) :
    waits i s = true := by
  cases i with
  | boot a => exact absurd rfl (hi a)
  | _ => simp [waits, hbooted, h]

/-- Where the queue condition fails, an event that carries a host byte is held, whichever class it has (R145). -/
theorem wireByte_held (hlive : live s) (hfull : hostReady s = false) (hb : wireByte i = some b) :
    exec i s = .next s ∧ waits i s = true := by
  have hdisabled : enabled i s = false := by
    rw [enabled_of_wireByte hb]
    exact enabled_of_not_ready hfull
  refine ⟨?_, waits_of_not_enabled (by rintro a rfl; cases hb) hlive.1 hdisabled⟩
  rw [exec_of_wireByte hb, takeEvent_of_not_enabled hlive.1 hdisabled]

theorem txStep_held (hlive : live s) (hnothing : txReady s = false) :
    exec .txStep s = .next s ∧ waits .txStep s = true := by
  have hdisabled : enabled .txStep s = false := enabled_of_not_ready hnothing
  exact ⟨takeEvent_of_not_enabled hlive.1 hdisabled _, waits_of_not_enabled (by simp) hlive.1 hdisabled⟩

theorem hostReady_of_full_block (hpolicy : s.cfg.txqPolicy = .block) (hfull : s.cfg.txqDepth ≤ s.tx.queue.length) :
    hostReady s = false := by
  simp [hostReady, hpolicy, hfull]

theorem txReady_of_idle_empty (hphase : s.tx.phase = .idle) (hqueue : s.tx.queue = []) : txReady s = false := by
  simp [txReady, hphase, hqueue]

/-- A live block with room for a host byte runs every instruction that carries one (R103, R140). -/
theorem exec_of_hostReady (hlive : live s) (hready : hostReady s = true) (hb : wireByte i = some b) :
    exec i s = .next (hostByteOp b s) := by
  have hi : ready i s = true := by cases i <;> cases hb <;> exact hready
  rw [exec_of_wireByte hb, takeEvent_of_live hlive hi]

/-! A host byte, branch by branch. -/

/-- Outside a frame only the delimiter has an effect (R141). -/
theorem hostByteOp_of_idle (hidle : s.hf.inFrame = false) (hb : b ≠ DELIM) : hostByteOp b s = s := by
  rw [hostByteOp, if_pos (by simp [hidle]), if_neg hb]

/-- Outside a frame the delimiter opens one (R142). -/
theorem delimiter_of_idle (hidle : s.hf.inFrame = false) : delimiter s = openFrame s := by
  rw [delimiter, if_neg (by simp [hidle])]

/-- R143, for a frame with nothing in it. -/
theorem delimiter_of_empty (hbuf : s.hf.buf = []) : delimiter s = openFrame s := by
  rw [delimiter, if_pos hbuf, ite_self]

/-- R143, for a frame that is a packet. -/
theorem delimiter_of_packet (hframe : s.hf.inFrame = true) (hbuf : s.hf.buf ≠ []) :
    delimiter s = openFrame (deliver s.hf.buf s) := by
  rw [delimiter, if_pos hframe, if_neg hbuf]

/-- The escape byte waits for the byte behind it (R146). -/
theorem hostByteOp_esc (hframe : s.hf.inFrame = true) (hescape : s.hf.escape = false) :
    hostByteOp ESC s = setEscape s := by
  simp [hostByteOp, hframe, hescape, ESC, DELIM]

/-- Behind an escape only the delimiter keeps its meaning (R147). -/
theorem hostByteOp_of_escape (hframe : s.hf.inFrame = true) (hescape : s.hf.escape = true) (hb : b ≠ DELIM) :
    hostByteOp b s = escaped b s := by
  rw [hostByteOp, if_neg (by simp [hframe]), if_neg hb, if_pos hescape]

/-- A byte that is neither special nor escaped is put (R144). -/
theorem hostByteOp_data (hframe : s.hf.inFrame = true) (hescape : s.hf.escape = false) (hdelim : b ≠ DELIM)
    (hesc : b ≠ ESC) : hostByteOp b s = put b s := by
  rw [hostByteOp, if_neg (by simp [hframe]), if_neg hdelim, if_neg (by simp [hescape]), if_neg hesc]

/-! The operations behind the branches (R144, R145, R147). -/

theorem put_of_room (hroom : s.hf.buf.length ≠ s.cfg.hostMtu) (d : Byte) :
    put d s = { s with hf := { s.hf with buf := s.hf.buf ++ [d] } } := by
  rw [put, if_neg hroom]

theorem put_of_full (hfull : s.hf.buf.length = s.cfg.hostMtu) (d : Byte) : put d s = { s with
    hf := { inFrame := false, escape := false, buf := [] }
    log := s.log ++ [.hostOverflow (s.cfg.hostMtu + 1)] } := by
  rw [put, if_pos hfull]
  rfl

theorem escaped_of_room (hframe : s.hf.inFrame = true) (hroom : s.hf.buf.length ≠ s.cfg.hostMtu) (b : Byte) :
    escaped b s = { s with hf := { inFrame := true, escape := false, buf := s.hf.buf ++ [unmask b] } } := by
  rw [escaped, put_of_room (s := { s with hf := { s.hf with escape := false } }) hroom, ← hframe]

theorem escaped_of_full (hfull : s.hf.buf.length = s.cfg.hostMtu) (b : Byte) : escaped b s = { s with
    hf := { inFrame := false, escape := false, buf := [] }
    log := s.log ++ [.hostOverflow (s.cfg.hostMtu + 1)] } := by
  rw [escaped, put_of_full (s := { s with hf := { s.hf with escape := false } }) hfull]

theorem deliver_of_room (hroom : s.tx.queue.length < s.cfg.txqDepth) (p : Packet) :
    deliver p s = { s with tx := { s.tx with queue := s.tx.queue ++ [p] } } := by
  rw [deliver, if_pos hroom]

theorem deliver_of_full (hfull : s.cfg.txqDepth ≤ s.tx.queue.length) (p : Packet) : deliver p s = { s with
    tx := { s.tx with queue := s.tx.queue.drop 1 ++ [p] }
    log := s.log ++ [.txqDrop (s.tx.queue.headD []).length] } := by
  rw [deliver, if_neg (Nat.not_lt.mpr hfull)]
  rfl

/-- A full queue loses its oldest packet, whose length is logged. -/
theorem deliver_of_full_cons {oldest : Packet} {others : List Packet} (hfull : s.cfg.txqDepth ≤ s.tx.queue.length)
    (hqueue : s.tx.queue = oldest :: others) (p : Packet) : deliver p s = { s with
      tx := { s.tx with queue := others ++ [p] }
      log := s.log ++ [.txqDrop oldest.length] } := by
  rw [deliver_of_full hfull, hqueue]
  rfl

end

/-- Settles O8: either condition fails the event's own check, so it is not enabled. -/
theorem disabledEventsWait : Obligations.DisabledEventsWait := by
  rintro s i hlive (⟨hpolicy, hfull, hi⟩ | ⟨hphase, hqueue, rfl⟩)
  · have hready := hostReady_of_full_block hpolicy hfull
    obtain rfl | rfl | ⟨b, rfl | rfl | rfl⟩ := hi
    all_goals exact wireByte_held hlive hready rfl
  · exact txStep_held hlive (txReady_of_idle_empty hphase hqueue)

/-- Settles O14: HOST_BYTE and the byte classes take the two branches of an idle decoder by their byte. -/
theorem idleWaitsForDelimiter : Obligations.IdleWaitsForDelimiter := by
  intro s hlive hready hidle
  have hignored : ∀ {i b}, wireByte i = some b → b ≠ DELIM → exec i s = .next s := fun hi hb => by
    rw [exec_of_hostReady hlive hready hi, hostByteOp_of_idle hidle hb]
  have hopens : ∀ {i}, wireByte i = some DELIM → exec i s = .next (openFrame s) := fun hi => by
    rw [exec_of_hostReady hlive hready hi, ← delimiter_eq_hostByteOp, delimiter_of_idle hidle]
  exact ⟨fun b hb => ⟨hignored rfl hb, hignored rfl hb⟩, hignored rfl (by decide), hopens rfl, hopens rfl⟩

/-- Settles O15: the delimiter's own case split is on the buffer, and that of the delivery on the queue. -/
theorem delimiterDeliversFrame : Obligations.DelimiterDeliversFrame := by
  intro s i hlive hready hframe hi
  have hdelim : wireByte i = some DELIM := by obtain rfl | rfl := hi <;> rfl
  rw [exec_of_hostReady hlive hready hdelim, ← delimiter_eq_hostByteOp]
  refine ⟨fun hbuf => ?_, fun hbuf hroom => ?_, fun oldest others hbuf hfull hqueue => ?_⟩
  · rw [delimiter_of_empty hbuf]
    rfl
  · rw [delimiter_of_packet hframe hbuf, deliver_of_room hroom]
    rfl
  · rw [delimiter_of_packet hframe hbuf, deliver_of_full_cons hfull hqueue]
    rfl

/-- Settles O16: HOST_BYTE and HOST.ESC carry the same byte. -/
theorem escapeByteSetsEscape : Obligations.EscapeByteSetsEscape := by
  intro s hlive hready hframe hescape
  have hsets : ∀ {i}, wireByte i = some ESC → exec i s = .next (setEscape s) := fun hi => by
    rw [exec_of_hostReady hlive hready hi, hostByteOp_esc hframe hescape]
  exact ⟨hsets rfl, hsets rfl⟩

/-- Settles O17, with the table of R147 for the byte that is put. -/
theorem escapedByteIsUnmasked : Obligations.EscapedByteIsUnmasked := by
  intro s b i hlive hready hframe hescape hb hi
  have hbyte : wireByte i = some b := by obtain rfl | rfl := hi <;> rfl
  rw [exec_of_hostReady hlive hready hbyte, hostByteOp_of_escape hframe hescape hb]
  refine ⟨fun hroom => ?_, fun hfull => ?_⟩
  · rw [escaped_of_room hframe hroom, unmask_table]
  · rw [escaped_of_full hfull]

/-- Settles O18: the byte is put, and the overflow check of `put` decides between the two clauses. -/
theorem dataByteIsAppended : Obligations.DataByteIsAppended := by
  intro s b i hlive hready hframe hescape hdelim hesc hi
  have hbyte : wireByte i = some b := by obtain rfl | rfl := hi <;> rfl
  rw [exec_of_hostReady hlive hready hbyte, hostByteOp_data hframe hescape hdelim hesc]
  exact ⟨fun hroom => by rw [put_of_room hroom], fun hfull => by rw [put_of_full hfull]⟩

end Sys2Proof.Machine

/-! SUPPORT. The wire form of a packet: its length, and its way through the decoder (41_host_framer.md R150 to
R152). -/

namespace Sys2Proof.Machine

section
variable {s : State} {b : Byte} {buf : List Byte} {p : Packet}

/-! The wire form of a byte (R101, R150). -/

theorem stuff_of_reserved (h : b = DELIM ∨ b = ESC) : stuff b = [ESC, b ^^^ MASK] := by
  rw [stuff, if_pos h]

theorem stuff_of_plain (hdelim : b ≠ DELIM) (hesc : b ≠ ESC) : stuff b = [b] := by
  rw [stuff, if_neg (not_or.mpr ⟨hdelim, hesc⟩)]

/-- The masked form of a reserved byte is no delimiter, so it does not end the frame. -/
theorem xor_mask_ne_delim (h : b = DELIM ∨ b = ESC) : b ^^^ MASK ≠ DELIM := by
  obtain rfl | rfl := h <;> decide

theorem unmask_xor_mask (h : b = DELIM ∨ b = ESC) : unmask (b ^^^ MASK) = b := by
  obtain rfl | rfl := h <;> decide

/-- Each reserved byte of the payload costs one further byte (R151). -/
theorem length_flatMap_stuff (p : Packet) :
    (p.flatMap stuff).length = p.length + p.countP (fun b => b = 0x7E || b = 0x7D) := by
  induction p with
  | nil => rfl
  | cons b p ih =>
    rw [List.flatMap_cons, List.length_append, ih, List.length_cons, List.countP_cons]
    have hreserved : (b = 0x7E || b = 0x7D) = true ↔ b = DELIM ∨ b = ESC := by
      rw [Bool.or_eq_true, decide_eq_true_eq, decide_eq_true_eq]; rfl
    by_cases h : b = DELIM ∨ b = ESC
    · rw [stuff_of_reserved h, if_pos (hreserved.mpr h), List.length_cons, List.length_singleton]
      omega
    · obtain ⟨hdelim, hesc⟩ := not_or.mp h
      rw [stuff_of_plain hdelim hesc, if_neg (mt hreserved.mp h), List.length_singleton]
      omega

/-! The decoder inside a frame. -/

/-- The state `s` with its decoder in a frame that holds `buf`, no escape pending. -/
def receiving (buf : List Byte) (s : State) : State :=
  { s with hf := { inFrame := true, escape := false, buf := buf } }

theorem openFrame_eq_receiving (s : State) : openFrame s = receiving [] s := rfl

theorem execAll_hostByte_cons (hlive : live s) (hready : hostReady s = true) (b : Byte) (is : List Instr) :
    execAll (.hostByte b :: is) s = execAll is (hostByteOp b s) := by
  rw [execAll, exec_of_hostReady hlive hready rfl]

/-- The wire form of a byte, one event or two, puts that byte into the frame. -/
theorem execAll_stuff (hlive : live s) (hready : hostReady s = true) (hroom : buf.length ≠ s.cfg.hostMtu) (b : Byte)
    (is : List Instr) :
    execAll ((stuff b).map .hostByte ++ is) (receiving buf s) = execAll is (receiving (buf ++ [b]) s) := by
  have hlive' : live (receiving buf s) := hlive
  have hready' : hostReady (receiving buf s) = true := hready
  by_cases h : b = DELIM ∨ b = ESC
  · have hescaped : escaped (b ^^^ MASK) (setEscape (receiving buf s)) = receiving (buf ++ [b]) s := by
      rw [escaped_of_room rfl hroom, unmask_xor_mask h]
      rfl
    rw [stuff_of_reserved h]
    simp only [List.map_cons, List.map_nil, List.cons_append, List.nil_append]
    rw [execAll_hostByte_cons hlive' hready', hostByteOp_esc rfl rfl,
      execAll_hostByte_cons (s := setEscape (receiving buf s)) hlive hready,
      hostByteOp_of_escape rfl rfl (xor_mask_ne_delim h), hescaped]
  · obtain ⟨hdelim, hesc⟩ := not_or.mp h
    have hput : put b (receiving buf s) = receiving (buf ++ [b]) s := put_of_room hroom b
    rw [stuff_of_plain hdelim hesc]
    simp only [List.map_cons, List.map_nil, List.cons_append, List.nil_append]
    rw [execAll_hostByte_cons hlive' hready', hostByteOp_data rfl rfl hdelim hesc, hput]

/-- The wire form of a payload is received byte by byte, as long as the frame stays within HOST_MTU. -/
theorem execAll_payload (hlive : live s) (hready : hostReady s = true) (is : List Instr) :
    ∀ (p : Packet) (buf : List Byte), buf.length + p.length ≤ s.cfg.hostMtu →
      execAll ((p.flatMap stuff).map .hostByte ++ is) (receiving buf s) = execAll is (receiving (buf ++ p) s)
  | [], buf, _ => by rw [List.append_nil]; rfl
  | b :: p, buf, hmtu => by
    rw [List.length_cons] at hmtu
    have hroom : buf.length ≠ s.cfg.hostMtu := by omega
    have hrest : (buf ++ [b]).length + p.length ≤ s.cfg.hostMtu := by
      rw [List.length_append, List.length_singleton]; omega
    rw [List.flatMap_cons, List.map_append, List.append_assoc, execAll_stuff hlive hready hroom,
      execAll_payload hlive hready is p _ hrest, List.append_assoc, List.singleton_append]

/-- The delivery neither reads nor writes the decoder. -/
theorem deliver_receiving (p : Packet) (buf : List Byte) (s : State) :
    deliver p (receiving buf s) = receiving buf (deliver p s) := by
  obtain hroom | hfull := Nat.lt_or_ge s.tx.queue.length s.cfg.txqDepth
  · rw [deliver_of_room hroom, deliver_of_room (s := receiving buf s) hroom]
    rfl
  · rw [deliver_of_full hfull, deliver_of_full (s := receiving buf s) hfull]
    rfl

/-- From idle or an empty frame the delimiter leaves an empty frame (R142, R143). -/
theorem hostByteOp_delim_opens (h : s.hf.inFrame = false ∨ s.hf.buf = []) : hostByteOp DELIM s = receiving [] s := by
  rw [← delimiter_eq_hostByteOp, ← openFrame_eq_receiving]
  obtain hidle | hempty := h
  · exact delimiter_of_idle hidle
  · exact delimiter_of_empty hempty

/-- The wire bytes of a packet are its delivery: the first delimiter opens the frame, the stuffed bytes fill it, and the
last delimiter ends it (R152). -/
theorem execAll_hostEncode (hlive : live s) (hready : hostReady s = true) (hne : p ≠ [])
    (hmtu : p.length ≤ s.cfg.hostMtu) (hstart : s.hf.inFrame = false ∨ s.hf.buf = []) :
    execAll ((hostEncode p).map .hostByte) s = .next (openFrame (deliver p s)) := by
  have hlast : hostByteOp DELIM (receiving p s) = openFrame (deliver p s) := by
    rw [← delimiter_eq_hostByteOp, delimiter_of_packet rfl hne, show (receiving p s).hf.buf = p from rfl,
      deliver_receiving]
    rfl
  calc execAll ((hostEncode p).map .hostByte) s
      = execAll ((p.flatMap stuff).map .hostByte ++ [.hostByte DELIM]) (receiving [] s) := by
        rw [hostEncode, List.map_cons, List.map_append, execAll_hostByte_cons hlive hready,
          hostByteOp_delim_opens hstart]
        rfl
    _ = execAll [.hostByte DELIM] (receiving p s) :=
        execAll_payload hlive hready _ p [] (by simpa using hmtu)
    _ = .next (openFrame (deliver p s)) := by
        rw [execAll_hostByte_cons (s := receiving p s) hlive hready, hlast]
        rfl

end

/-- Settles O20: each byte is counted once, and once more where it is reserved. -/
theorem hostEncodeLength : Obligations.HostEncodeLength := by
  intro p
  have hlength : (hostEncode p).length = p.length + 2 + p.countP (fun b => b = 0x7E || b = 0x7D) := by
    rw [hostEncode, List.length_cons, List.length_append, length_flatMap_stuff, List.length_singleton]
    omega
  have hcount : p.countP (fun b => b = 0x7E || b = 0x7D) ≤ p.length := List.countP_le_length
  exact ⟨hlength, by omega⟩

/-- Settles O21: the wire bytes are the delivery of the packet, and the queue decides what that is (R145). -/
theorem hostFramerRoundTrip : Obligations.HostFramerRoundTrip := by
  intro s p hlive hready hlen hmtu hstart
  rw [execAll_hostEncode hlive hready (List.length_pos_iff.mp hlen) hmtu hstart]
  refine ⟨fun hroom => ?_, fun oldest others hfull hqueue => ?_⟩
  · rw [deliver_of_room hroom]
    rfl
  · rw [deliver_of_full_cons hfull hqueue]
    rfl

end Sys2Proof.Machine

/-! SUPPORT. The two queries, and what a list of updates does to the permission (42_channel_sense.md R188, R190,
R192). -/

namespace Sys2Proof.Machine

theorem exec_mayTx {s : State} (hlive : live s) : exec .mayTx s = .next (s.reply (.mayTx s.cs.allowed)) := by
  simp only [exec, execMayTx]
  exact takeEvent_of_live hlive rfl

theorem exec_pttStatus {s : State} (hlive : live s) :
    exec .pttStatus s = .next (s.reply (.pttStatus s.pttKeyed)) := by
  simp only [exec, execPttStatus]
  exact takeEvent_of_live hlive rfl

/-- Settles O22: a reply appends to the record of replies and changes nothing else. -/
theorem queriesReturnRegisters : Obligations.QueriesReturnRegisters :=
  fun _ hlive => ⟨exec_mayTx hlive, exec_pttStatus hlive⟩

section
variable {c : Cfg} {e : Energy} {n : Nat} {cs : ChannelEnergy} {us : List (Energy × Nat)}

/-! Updates in order. -/

@[simp] theorem senseAll_nil : senseAll c [] cs = cs := rfl

@[simp] theorem senseAll_cons (u : Energy × Nat) :
    senseAll c (u :: us) cs = senseAll c us (sense c u.1 u.2 cs) := rfl

/-! One update, by its smoothed value. -/

/-- A quiet update counts its samples, and grants permission where the count then exceeds the dwell (R186). -/
theorem sense_of_quiet (hthreshold : c.lowerDb.val < c.upperDb.val)
    (hquiet : (sense c e n cs).smoothed.val < c.lowerDb.val) :
    (sense c e n cs).quiet = cs.quiet + n
      ∧ ((sense c e n cs).allowed = true ↔ c.dwellSamples < cs.quiet + n ∨ cs.allowed = true) := by
  rw [sense, gate_smoothed] at hquiet
  rw [sense, gate_of_quiet n (hquiet.trans hthreshold).le hquiet]
  exact ⟨rfl, by simp only [Bool.if_true_left, Bool.or_eq_true, decide_eq_true_eq]⟩

/-- An update that is not quiet grants no permission (R185, R187). -/
theorem sense_not_allowed_of_not_quiet (hloud : c.lowerDb.val ≤ (sense c e n cs).smoothed.val)
    (hcs : cs.allowed = false) : (sense c e n cs).allowed = false := by
  rw [sense, gate_smoothed] at hloud
  rw [sense]
  obtain hbusy | hdead := lt_or_ge c.upperDb.val (smooth c e cs.smoothed).val
  · rw [gate_of_busy n hbusy]
  · rw [gate_of_dead n hloud hdead]
    exact hcs

/-! Quiet updates (R190). -/

/-- Every update of the list leaves a smoothed value below LOWER_DB (R190). -/
def AllQuiet (c : Cfg) (us : List (Energy × Nat)) (cs : ChannelEnergy) : Prop :=
  ∀ k, k < us.length → (senseAll c (us.take (k + 1)) cs).smoothed.val < c.lowerDb.val

theorem AllQuiet.head {u : Energy × Nat} (h : AllQuiet c (u :: us) cs) :
    (sense c u.1 u.2 cs).smoothed.val < c.lowerDb.val := h 0 (Nat.zero_lt_succ _)

theorem AllQuiet.tail {u : Energy × Nat} (h : AllQuiet c (u :: us) cs) : AllQuiet c us (sense c u.1 u.2 cs) :=
  fun k hk => h (k + 1) (Nat.succ_lt_succ hk)

/-- After quiet updates permission is there if it was before, or if there was an update and the count exceeds the dwell.
The count only grows, so it exceeds the dwell at the end if it ever does. -/
theorem senseAll_allowed_of_allQuiet (hthreshold : c.lowerDb.val < c.upperDb.val) (h : AllQuiet c us cs) :
    (senseAll c us cs).allowed = true
      ↔ cs.allowed = true ∨ us ≠ [] ∧ c.dwellSamples < cs.quiet + (us.map (·.2)).sum := by
  induction us generalizing cs with
  | nil => simp
  | cons u us ih =>
    obtain ⟨hcount, hgrant⟩ := sense_of_quiet hthreshold h.head
    have hgrows : c.dwellSamples < cs.quiet + u.2 → c.dwellSamples < cs.quiet + u.2 + (us.map (·.2)).sum :=
      Nat.lt_add_right _
    rw [senseAll_cons, ih h.tail, hcount, hgrant, List.map_cons, List.sum_cons, ← Nat.add_assoc]
    cases us with
    | nil => simp [or_comm]
    | cons v vs =>
      simp only [ne_eq, reduceCtorEq, not_false_eq_true, true_and]
      tauto

/-! Updates above the floor (R192). -/

/-- With the floor at or above LOWER_DB no update of admitted energy is quiet, so none grants permission. -/
theorem senseAll_not_allowed_of_floor (halpha : 0 < c.alpha.val) (hone : c.alpha.val ≤ 1)
    (hfloor : c.lowerDb.val ≤ c.floorDb.val) (hus : ∀ u ∈ us, c.floorDb.val ≤ u.1.val)
    (hsmoothed : c.floorDb.val ≤ cs.smoothed.val) (hcs : cs.allowed = false) :
    (senseAll c us cs).allowed = false := by
  induction us generalizing cs with
  | nil => exact hcs
  | cons u us ih =>
    obtain ⟨hu, hrest⟩ := List.forall_mem_cons.mp hus
    have habove := sense_energy u.2 halpha hone hu hsmoothed
    exact ih hrest habove (sense_not_allowed_of_not_quiet (hfloor.trans habove) hcs)

end

/-- Settles O24: without permission at the start, the count decides. -/
theorem permissionAfterDwell : Obligations.PermissionAfterDwell := by
  intro c cs us hthreshold hcs hne hquiet
  rw [senseAll_allowed_of_allQuiet hthreshold hquiet]
  simp [hcs, hne]

/-- Settles O25: the reset state stands at the floor without permission. -/
theorem noPermissionAboveFloor : Obligations.NoPermissionAboveFloor := by
  intro c us hargs hfloor hus
  obtain ⟨-, -, -, halpha, hone, -, -⟩ := (argsOk_iff _).mp hargs
  exact senseAll_not_allowed_of_floor halpha hone hfloor hus le_rfl rfl

end Sys2Proof.Machine

/-! SUPPORT. The frames of one packet, decoded in order, with none and with one of them lost (43_air_framer.md R220 to
R233). -/

namespace Sys2Proof.Machine

/-- The frames of a packet of more than one payload, as AirFramer.encode cuts it under an admitted configuration: `k`
payloads of `P` bytes hold it, and `k - 1` do not (R212). -/
structure Fragmentation (c : Cfg) (p : Packet) (k : Nat) : Prop where
  tags : c.tags.distinct = true
  frameSize : 4 ≤ airF c
  payloadSize : airP c ≤ 63
  several : 2 ≤ k
  most : k ≤ 64
  above : (k - 1) * airP c < p.length
  holds : p.length ≤ k * airP c

/-- Frame `j` of the `k` frames of a packet (R215 to R217). `Fragmentation.getElem?_frames` ties it to the encoder. -/
def frameAt (c : Cfg) (p : Packet) (k j : Nat) : Frame :=
  frameOfHeader c (multiHeader c p.length k j) (payloadOf c p j)

/-- The reassembly behind the first `n ≥ 1` frames, the END not among them (R223, R224). -/
def reassemblyAfter (c : Cfg) (p : Packet) (k n : Nat) : Reassembly where
  lastTag := if n = 1 then .begin1 else .frag
  lastId := BitVec.ofNat 8 (k - n)
  acc := p.take (n * airP c)

/-- The reassembly takes frame `m ≥ 1` of `k` as the next one: the ids count down to 1, then END
follows (R224, R226). -/
def Reassembly.expects (r : Reassembly) (k m : Nat) : Prop := r.inProgress = true ∧ r.lastId.toNat = k - m

section
variable {s : State} {c : Cfg} {p : Packet} {k j m n : Nat} {data : List Byte}

/-! Packets of an admitted configuration. -/

theorem cfgOk_framing (h : cfgOk c = true) : c.tags.distinct = true ∧ 4 ≤ airF c ∧ airP c ≤ 63 := by
  obtain ⟨hargs, hgeo⟩ := Bool.and_eq_true_iff.mp h
  obtain ⟨-, -, -, -, -, -, htags⟩ := (argsOk_iff _).mp hargs
  obtain ⟨hF, hmost, -, -⟩ := (geometryOk_iff c).mp hgeo
  exact ⟨htags, hF, by rw [airP]; omega⟩

theorem fragmentation_of_cfgOk (hcfg : cfgOk c = true) (hlong : airP c < p.length) (hfits : p.length ≤ 64 * airP c) :
    Fragmentation c p (ceilDiv p.length (airP c)) := by
  obtain ⟨htags, hF, hP63⟩ := cfgOk_framing hcfg
  have hP : 0 < airP c := by rw [airP]; omega
  obtain ⟨habove, hholds⟩ := ceilDiv_bounds hP (n := p.length) (by omega)
  have hmost : ceilDiv p.length (airP c) ≤ 64 := (ceilDiv_le_iff hP 64).mpr (by omega)
  exact ⟨htags, hF, hP63, two_le_ceilDiv hP hlong, hmost, habove, hholds⟩

/-! AirFramer.decode on a frame of the encoder: the operation of its kind on the padded payload (R220). -/

theorem airDecode_frameOfHeader (hcfg : s.cfg = c) (htags : c.tags.distinct = true) (hF : 4 ≤ airF c)
    (hdata : data.length ≤ airP c) (kind : AirKind) (f : Field) :
    airDecode (frameOfHeader c (airHeader c.tags kind f) data) s
      = airOp kind f (data ++ List.replicate (airP c - data.length) 0) s := by
  subst hcfg
  have hlength := length_mkFrame (c := s.cfg) kind f.toNat hF hdata
  rw [mkFrame_eq, BitVec.ofNat_toNat, BitVec.setWidth_eq] at hlength
  refine (airDecode_airHeader htags hlength kind f).trans (airOp_of_payload ?_ kind f)
  refine List.take_append_of_le_length ?_
  rw [List.length_append, List.length_replicate]
  omega

/-- A length field holds the length of every payload (R111, R372). -/
theorem toNat_ofNat_field (h : n ≤ 63) : (BitVec.ofNat 6 n).toNat = n := by
  rw [BitVec.toNat_ofNat, Nat.mod_eq_of_lt (by omega)]

/-- The register holds an id as the header does (R41). -/
theorem zeroExtend_ofNat_field (h : n ≤ 63) : (BitVec.ofNat 6 n).zeroExtend 8 = BitVec.ofNat 8 n :=
  BitVec.setWidth_ofNat_of_le_of_lt (by omega) (by omega)

/-- The length field cuts the padding off (R222, R226). -/
theorem take_padded (hdata : data.length ≤ 63) (pad : List Byte) :
    (data ++ pad).take (BitVec.ofNat 6 data.length).toNat = data := by
  rw [toNat_ofNat_field hdata, List.take_left]

/-! Several frames in order. -/

theorem decodeAll_cons_of_eq {f : Frame} {fs : List Frame} {o : Option Packet} {os : List (Option Packet)} {t u : State}
    (hf : airDecode f s = (t, o)) (hfs : decodeAll fs t = (u, os)) : decodeAll (f :: fs) s = (u, o :: os) := by
  rw [decodeAll, hf, hfs]

theorem decodeAll_append_of_eq {fs gs : List Frame} {os os' : List (Option Packet)} {t u : State}
    (hfs : decodeAll fs s = (t, os)) (hgs : decodeAll gs t = (u, os')) : decodeAll (fs ++ gs) s = (u, os ++ os') := by
  induction fs generalizing s os with
  | nil =>
    cases hfs
    exact hgs
  | cons f fs ih =>
    cases hfs
    exact decodeAll_cons_of_eq rfl (ih rfl)

/-- One frame more at the end. -/
theorem decodeAll_concat_of_eq {f : Frame} {fs : List Frame} {o : Option Packet} {os : List (Option Packet)}
    {t u : State} (hfs : decodeAll fs s = (t, os)) (hf : airDecode f t = (u, o)) :
    decodeAll (fs ++ [f]) s = (u, os ++ [o]) :=
  decodeAll_append_of_eq hfs (decodeAll_cons_of_eq hf rfl)

/-! The reassembly between two frames of the packet. -/

theorem not_expects_of_single {r : Reassembly} (h : r.lastTag = .single) : ¬ r.expects k m := by
  rintro ⟨hprogress, -⟩
  simp [Reassembly.inProgress, h] at hprogress

/-- The records of a run of lost frames: that of the first, then those of the rest. -/
theorem range_succ_map_lossOf (tag : AirKind) (id : Nat) : ((List.range (n + 1)).map fun i => lossOf k (m + i) tag id) =
    lossOf k m tag id :: (List.range n).map fun i => lossOf k (m + 1 + i) tag id := by
  simp only [List.range_succ_eq_map, List.map_cons, List.map_map, Function.comp_def, Nat.add_zero, Nat.succ_eq_add_one,
    Nat.add_right_comm m 1, Nat.add_assoc]

/-- Payload by payload the packet is put together (R216, R224). -/
theorem take_append_payloadOf : p.take (n * airP c) ++ payloadOf c p n = p.take ((n + 1) * airP c) := by
  rw [Nat.add_one_mul, List.take_add, payloadOf]

theorem reassemblyAfter_inProgress : (reassemblyAfter c p k n).inProgress = true := by
  rw [inProgress_iff, reassemblyAfter]
  split
  · exact .inl rfl
  · exact .inr rfl

namespace Fragmentation
variable (h : Fragmentation c p k)
include h

theorem length_payloadOf (hj : j + 1 < k) : (payloadOf c p j).length = airP c := by
  have habove := h.above
  have hwhole : (j + 1) * airP c ≤ (k - 1) * airP c := Nat.mul_le_mul_right _ (by omega)
  rw [Nat.add_one_mul] at hwhole
  rw [payloadOf, List.length_take, List.length_drop]
  omega

theorem length_lastPayload : (payloadOf c p (k - 1)).length = p.length - (k - 1) * airP c := by
  have hholds := h.holds
  have hseveral := h.several
  rw [payloadOf_eq_drop (by rwa [Nat.sub_add_cancel (by omega)]), List.length_drop]

theorem getElem?_frames (hj : j < k) : (multiFrames c p k)[j]? = some (frameAt c p k j) :=
  getElem?_multiFrames h.several h.holds hj

theorem length_frames : (multiFrames c p k).length = k := length_multiFrames h.several

theorem take_succ_frames (hn : n < k) :
    (multiFrames c p k).take (n + 1) = (multiFrames c p k).take n ++ [frameAt c p k n] := by
  rw [List.take_add_one, h.getElem?_frames hn, Option.toList_some]

/-- The END is behind all the others (R215). -/
theorem frames_eq_concat : multiFrames c p k = (multiFrames c p k).take (k - 1) ++ [frameAt c p k (k - 1)] := by
  have hseveral := h.several
  rw [← h.take_succ_frames (by omega), Nat.sub_add_cancel (by omega), List.take_of_length_le h.length_frames.le]

theorem drop_frames (hn : n < k) :
    (multiFrames c p k).drop n = frameAt c p k n :: (multiFrames c p k).drop (n + 1) := by
  obtain ⟨hlt, hget⟩ := List.getElem?_eq_some_iff.mp (h.getElem?_frames hn)
  rw [List.drop_eq_getElem_cons hlt, hget]

theorem toNat_lastId (hn : 1 ≤ n) : (reassemblyAfter c p k n).lastId.toNat = k - n := by
  have hmost := h.most
  rw [reassemblyAfter, BitVec.toNat_ofNat, Nat.mod_eq_of_lt (by omega)]

theorem reassemblyAfter_expects_iff (hn : 1 ≤ n) (hm : m < k) : (reassemblyAfter c p k n).expects k m ↔ m = n := by
  rw [Reassembly.expects, h.toNat_lastId hn]
  exact ⟨fun ⟨_, hid⟩ => by omega, fun hmn => ⟨reassemblyAfter_inProgress, by rw [hmn]⟩⟩

/-! One frame (R223 to R228). -/

/-- BEGIN (R223). -/
theorem airDecode_begin (hcfg : s.cfg = c) :
    airDecode (frameAt c p k 0) s = ({ s with af := reassemblyAfter c p k 1 }, none) := by
  have hfirst := h.length_payloadOf (j := 0) h.several
  have hmost := h.most
  refine (airDecode_frameOfHeader hcfg h.tags h.frameSize hfirst.le .begin1 _).trans ?_
  rw [hfirst, Nat.sub_self, List.replicate_zero, List.append_nil, airOp, airBeginOp, hcfg,
    zeroExtend_ofNat_field (by omega), List.take_of_length_le hfirst.le, reassemblyAfter, if_pos rfl, payloadOf,
    Nat.zero_mul, List.drop_zero, Nat.one_mul]

/-- A FRAG is the operation of R224 and R225 on one whole payload and its place in the countdown. -/
theorem airDecode_frag (hcfg : s.cfg = c) (hm : 1 ≤ m) (hfrag : m + 1 < k) :
    airDecode (frameAt c p k m) s = airFragOp (BitVec.ofNat 6 (k - 1 - m)) (payloadOf c p m) s := by
  have hwhole := h.length_payloadOf hfrag
  have hheader : multiHeader c p.length k m = airHeader c.tags .frag (BitVec.ofNat 6 (k - 1 - m)) := by
    rw [multiHeader, if_neg (by omega), if_pos hfrag]
  rw [frameAt, hheader, airDecode_frameOfHeader hcfg h.tags h.frameSize hwhole.le, hwhole, Nat.sub_self,
    List.replicate_zero, List.append_nil, airOp]

/-- An END of the encoder has an admitted length, so its sequence decides (R226, R227). -/
theorem airDecode_end (hcfg : s.cfg = c) : airDecode (frameAt c p k (k - 1)) s =
    if s.af.inProgress ∧ s.af.lastId = 1 then (afReset s, some (s.af.acc ++ payloadOf c p (k - 1)))
    else (fragLoss .end1 0 s, none) := by
  have hlen := length_payloadOf_le (c := c) (p := p) (k - 1)
  have hfield := hlen.trans h.payloadSize
  have hseveral := h.several
  have hheader : multiHeader c p.length k (k - 1)
      = airHeader c.tags .end1 (BitVec.ofNat 6 (payloadOf c p (k - 1)).length) := by
    rw [multiHeader, if_neg (by omega), if_neg (by omega), h.length_lastPayload]
  rw [frameAt, hheader, airDecode_frameOfHeader hcfg h.tags h.frameSize hlen, airOp,
    airEndOp_of_le (by rwa [toNat_ofNat_field hfield, hcfg]), take_padded hfield]

/-- A FRAG that the reassembly expects adds its payload (R224). -/
theorem airDecode_frag_of_expected (hcfg : s.cfg = c) (haf : s.af = reassemblyAfter c p k n) (hn : 1 ≤ n)
    (hfrag : n + 1 < k) : airDecode (frameAt c p k n) s = ({ s with af := reassemblyAfter c p k (n + 1) }, none) := by
  have hmost := h.most
  have hwhole := h.length_payloadOf hfrag
  rw [h.airDecode_frag hcfg hn hfrag, airFragOp, if_pos, zeroExtend_ofNat_field (by omega), hcfg,
    List.take_of_length_le hwhole.le]
  · rw [haf, reassemblyAfter, take_append_payloadOf, reassemblyAfter, if_neg (by omega), Nat.sub_sub, Nat.add_comm 1 n]
  · rw [haf, h.toNat_lastId hn, toNat_ofNat_field (by omega)]
    exact ⟨reassemblyAfter_inProgress, by omega⟩

/-- The END that the reassembly expects completes the packet (R226, R228). -/
theorem airDecode_end_of_expected (hcfg : s.cfg = c) (haf : s.af = reassemblyAfter c p k (k - 1)) :
    airDecode (frameAt c p k (k - 1)) s = (afReset s, some p) := by
  have hseveral := h.several
  have hlast : (reassemblyAfter c p k (k - 1)).lastId = 1 := by
    rw [reassemblyAfter, Nat.sub_sub_self (by omega)]
    rfl
  rw [h.airDecode_end hcfg, haf, if_pos ⟨reassemblyAfter_inProgress, hlast⟩, reassemblyAfter, take_append_payloadOf,
    Nat.sub_add_cancel (by omega), List.take_of_length_le h.holds]

/-- A FRAG or END that the reassembly does not expect is logged and resets it (R225, R227, R228). -/
theorem airDecode_of_not_expects (hcfg : s.cfg = c) (hm : 1 ≤ m) (hmk : m < k) (hlost : ¬ s.af.expects k m) :
    airDecode (frameAt c p k m) s = ({ s with
      af := Reassembly.reset, log := s.log ++ [lossOf k m s.af.lastTag s.af.lastId.toNat] }, none) := by
  have hmost := h.most
  obtain rfl | hfrag : m = k - 1 ∨ m + 1 < k := by omega
  · rw [h.airDecode_end hcfg, if_neg, lossOf, if_neg (by omega)]
    · rfl
    · rintro ⟨hprogress, hid⟩
      exact hlost ⟨hprogress, by rw [hid, Nat.sub_sub_self (by omega)]; rfl⟩
  · rw [h.airDecode_frag hcfg hm hfrag, airFragOp, toNat_ofNat_field (by omega), if_neg, lossOf, if_pos hfrag]
    · rfl
    · rintro ⟨hprogress, hid⟩
      exact hlost ⟨hprogress, by omega⟩

/-! The first frames of the packet, and the rest of it after a loss. -/

/-- From any reassembly state the frames before the END complete nothing and put their payloads together (R232). -/
theorem decodeAll_take (hcfg : s.cfg = c) (hn : 1 ≤ n) (hnk : n < k) :
    decodeAll ((multiFrames c p k).take n) s = ({ s with af := reassemblyAfter c p k n }, List.replicate n none) := by
  induction n, hn using Nat.le_induction with
  | base =>
    rw [h.take_succ_frames (by omega)]
    exact decodeAll_concat_of_eq rfl (h.airDecode_begin hcfg)
  | succ n hn ih =>
    rw [h.take_succ_frames (by omega), List.replicate_succ']
    exact decodeAll_concat_of_eq (ih (by omega)) (h.airDecode_frag_of_expected hcfg rfl hn hnk)

/-- Nothing expects the frames after a reset, so each of them is logged (R225, R227). -/
theorem decodeAll_drop_of_reset (hcfg : s.cfg = c) (haf : s.af = Reassembly.reset) (hm : 1 ≤ m) (hsum : m + n = k) :
    decodeAll ((multiFrames c p k).drop m) s =
      ({ s with log := s.log ++ (List.range n).map fun i => lossOf k (m + i) .single 0 }, List.replicate n none) := by
  induction n generalizing s m with
  | zero =>
    rw [List.drop_of_length_le (by rw [h.length_frames]; omega), List.range_zero, List.map_nil, List.append_nil]
    rfl
  | succ n ih =>
    have hlost : ¬ s.af.expects k m := not_expects_of_single (by rw [haf]; rfl)
    have hfirst := h.airDecode_of_not_expects hcfg hm (by omega) hlost
    rw [h.drop_frames (by omega), decodeAll_cons_of_eq hfirst (ih hcfg rfl (by omega) (by omega)),
      range_succ_map_lossOf, List.append_assoc, haf]
    rfl

/-- A frame that is not expected is logged with what it met, and every later one after the reset (R233). -/
theorem decodeAll_drop_of_not_expects (hcfg : s.cfg = c) (hm : 1 ≤ m) (hmk : m < k) (hlost : ¬ s.af.expects k m) :
    decodeAll ((multiFrames c p k).drop m) s = ({ s with
      af := Reassembly.reset
      log := s.log ++ lossOf k m s.af.lastTag s.af.lastId.toNat
        :: (List.range (k - m - 1)).map fun i => lossOf k (m + 1 + i) .single 0 }, List.replicate (k - m) none) := by
  have hcount : k - m = (k - m - 1) + 1 := by omega
  have hfirst := h.airDecode_of_not_expects hcfg hm hmk hlost
  rw [h.drop_frames hmk, decodeAll_cons_of_eq hfirst
    (h.decodeAll_drop_of_reset hcfg rfl (n := k - m - 1) (by omega) (by omega)), List.append_assoc, hcount]
  rfl

end Fragmentation
end

/-- Settles O35: the length field is that of the packet, and a SINGLE reads nothing else. -/
theorem singleFrameRoundTrip : Obligations.SingleFrameRoundTrip := by
  intro s p hcfg hshort
  obtain ⟨htags, hF, hP⟩ := cfgOk_framing hcfg
  have hpayload : payloadOf s.cfg p 0 = p := by
    rw [payloadOf_eq_drop (by omega), Nat.zero_mul, List.drop_zero]
  refine ⟨_, airEncode_single hshort, ?_⟩
  rw [hpayload, airDecode_frameOfHeader rfl htags hF hshort, airOp,
    airSingleOp_of_le (by rwa [toNat_ofNat_field (by omega)]), take_padded (by omega)]

/-- Settles O36: `decodeAll_take` up to the END, which then is the frame that the reassembly expects. -/
theorem multiFrameRoundTrip : Obligations.MultiFrameRoundTrip := by
  intro s p hcfg hlong hfits
  have h := fragmentation_of_cfgOk hcfg hlong hfits
  have hseveral := h.several
  refine ⟨_, airEncode_multi hlong hfits, by rwa [h.length_frames], fun j hj => ?_, ?_⟩
  · rw [h.length_frames] at hj ⊢
    rw [h.getElem?_frames hj]
    rfl
  · rw [h.length_frames, h.frames_eq_concat]
    exact decodeAll_concat_of_eq (h.decodeAll_take rfl (by omega) (by omega)) (h.airDecode_end_of_expected rfl rfl)

/-- Settles O37: after a lost FRAG or BEGIN the reassembly does not expect the next frame; without the END only
`decodeAll_take` is left. -/
theorem lostFrameDetected : Obligations.LostFrameDetected := by
  intro s p fs hcfg hlong hfs
  have hfits : p.length ≤ 64 * airP s.cfg := by
    by_contra hover
    rw [(airEncode_eq_none _ _).mpr (Nat.lt_of_not_le hover)] at hfs
    cases hfs
  have h := fragmentation_of_cfgOk hcfg hlong hfits
  have hseveral := h.several
  rw [airEncode_multi hlong hfits] at hfs
  cases hfs
  rw [h.length_frames]
  generalize ceilDiv p.length (airP s.cfg) = k at h hseveral
  refine ⟨fun j hj hjk => ?_, fun htag hid => ?_, ?_⟩
  · have hlost : ¬ (reassemblyAfter s.cfg p k j).expects k (j + 1) := by
      rw [h.reassemblyAfter_expects_iff hj hjk]
      omega
    have hcount : j + (k - (j + 1)) = k - 1 := by omega
    rw [List.eraseIdx_eq_take_drop_succ, decodeAll_append_of_eq (h.decodeAll_take rfl hj (by omega))
      (h.decodeAll_drop_of_not_expects rfl (by omega) hjk hlost), h.toNat_lastId hj, List.replicate_append_replicate,
      hcount]
    rfl
  · obtain ⟨n, rfl⟩ := Nat.exists_eq_add_of_le' hseveral
    rw [h.decodeAll_drop_of_not_expects rfl le_rfl hseveral (not_expects_of_single htag), htag, hid,
      Nat.add_sub_cancel (n := n + 1) (m := 1), range_succ_map_lossOf]
    rfl
  · have htag : k - 1 = 1 ↔ k = 2 := by omega
    rw [List.dropLast_eq_take, h.length_frames, h.decodeAll_take rfl (by omega) (by omega), reassemblyAfter,
      Nat.sub_sub_self (by omega)]
    simp only [htag]
    rfl

end Sys2Proof.Machine

/-! SUPPORT. What TX_STEP does in each phase (44_transmit_sequencer.md R262 to R273), and TX_CANCEL (R274, R275). -/

namespace Sys2Proof.Machine

section
variable {s : State}

/-! TX_STEP of a live block is the action of its phase (R260, R261). -/

theorem exec_txStep_of_not_idle (hlive : live s) (hphase : s.tx.phase ≠ .idle) : exec .txStep s = txPhase s :=
  exec_txStep hlive (by simp [txReady, hphase])

theorem exec_txStep_of_queued {p : Packet} {queue : List Packet} (hlive : live s) (hphase : s.tx.phase = .idle)
    (hqueue : s.tx.queue = p :: queue) : exec .txStep s = txIdle s := by
  rw [exec_txStep hlive (by simp [txReady, hqueue]), txPhase, hphase]

theorem exec_txStep_waitChannelFree (hlive : live s) (hphase : s.tx.phase = .waitChannelFree) :
    exec .txStep s = txWait s := by
  rw [exec_txStep_of_not_idle hlive (by simp [hphase]), txPhase, hphase]

theorem exec_txStep_keyedLeadIn (hlive : live s) (hphase : s.tx.phase = .keyedLeadIn) :
    exec .txStep s = .next (emitThen .leadIn (silence s.cfg.leadInSamples) .preamble s) := by
  rw [exec_txStep_of_not_idle hlive (by simp [hphase]), txPhase, hphase]; rfl

theorem exec_txStep_preamble (hlive : live s) (hphase : s.tx.phase = .preamble) :
    exec .txStep s = .next (emitThen .preamble (drawPre s).1 .frameEmit (drawPre s).2) := by
  rw [exec_txStep_of_not_idle hlive (by simp [hphase]), txPhase, hphase]; rfl

theorem exec_txStep_frameEmit (hlive : live s) (hphase : s.tx.phase = .frameEmit) :
    exec .txStep s = txFrame s := by
  rw [exec_txStep_of_not_idle hlive (by simp [hphase]), txPhase, hphase]

theorem exec_txStep_postamble (hlive : live s) (hphase : s.tx.phase = .postamble) :
    exec .txStep s = .next (emitThen .postamble (drawPost s).1 .leadOut (drawPost s).2) := by
  rw [exec_txStep_of_not_idle hlive (by simp [hphase]), txPhase, hphase]; rfl

theorem exec_txStep_leadOut (hlive : live s) (hphase : s.tx.phase = .leadOut) :
    exec .txStep s = .next (emitThen .leadOut (silence s.cfg.leadOutSamples) .drain s) := by
  rw [exec_txStep_of_not_idle hlive (by simp [hphase]), txPhase, hphase]; rfl

theorem exec_txStep_drain (hlive : live s) (hphase : s.tx.phase = .drain) :
    exec .txStep s = .next (if (drawDrained s).1 then (drawDrained s).2.setPhase .keyDown else (drawDrained s).2) := by
  rw [exec_txStep_of_not_idle hlive (by simp [hphase]), txPhase, hphase]; exact txDrain_eq s

theorem exec_txStep_keyDown (hlive : live s) (hphase : s.tx.phase = .keyDown) :
    exec .txStep s = .next ((s.pttSet false).clearPacket .idle) := by
  rw [exec_txStep_of_not_idle hlive (by simp [hphase]), txPhase, hphase]; rfl

theorem exec_txCancel (hlive : live s) : exec .txCancel s = .next (cancel s) :=
  takeEvent_of_live (i := .txCancel) (k := fun s => .next (cancel s)) hlive rfl

/-! The branches of the actions. -/

/-- A packet that can be fragmented is taken (R262). -/
theorem txIdle_of_frames {p : Packet} {queue : List Packet} {frames : List Frame} (hqueue : s.tx.queue = p :: queue)
    (hframes : airEncode s.cfg p = some frames) : txIdle s = .next { s with
      tx := { phase := .waitChannelFree, frames := frames, index := 0, polls := 0, queue := queue } } := by
  simp only [txIdle, hqueue, hframes]

/-- A packet that is too long is dropped (R263). -/
theorem txIdle_of_tooLong {p : Packet} {queue : List Packet} (hqueue : s.tx.queue = p :: queue)
    (hlong : airEncode s.cfg p = none) : txIdle s = .next { s with
      tx := { s.tx with queue := queue }, log := s.log ++ [.tooLong p.length] } := by
  simp only [txIdle, hqueue, hlong]; rfl

theorem txWait_of_allowed (hallowed : s.cs.allowed = true) :
    txWait s = .next ((s.pttSet true).setPhase .keyedLeadIn) := by
  rw [txWait, if_pos hallowed]

theorem txWait_of_not_allowed (hallowed : s.cs.allowed = false) : txWait s = .next (pollFailed s) := by
  rw [txWait, hallowed, if_neg Bool.false_ne_true]

/-- Below the limit, or with none, a failed poll is counted and nothing else (R264). -/
theorem pollFailed_of_below (hlimit : ∀ m, s.cfg.channelWaitLimit = some m → s.tx.polls + 1 < m) :
    pollFailed s = { s with tx := { s.tx with polls := s.tx.polls + 1 } } := by
  cases hm : s.cfg.channelWaitLimit with
  | none => simp only [pollFailed, hm]
  | some m => simp only [pollFailed, hm, if_neg (Nat.not_le_of_lt (hlimit m hm))]

/-- The poll that reaches the limit drops the packet (R264). -/
theorem pollFailed_of_limit {m : Nat} (hlimit : s.cfg.channelWaitLimit = some m) (hm : m ≤ s.tx.polls + 1) :
    pollFailed s = (s.raise (.waitLimit m)).clearPacket .idle := by
  simp only [pollFailed, hlimit, if_pos hm]; rfl

theorem silence_eq_nil (n : Nat) : silence n = [] ↔ n = 0 := List.replicate_eq_nil_iff _

/-- A write of samples is one action, and its answer is that of the audio output (R260). -/
theorem emit_of_ne_nil {samples : List Sample} (hsamples : samples ≠ []) (k : AudioKind) :
    emit k samples s = ((drawWrite s).1, (drawWrite s).2.act (.audio k samples)) := by
  rw [emit, if_neg hsamples]

/-- For no samples nothing is written or asked (R260). -/
theorem emit_nil (k : AudioKind) : emit k [] s = (true, s) := rfl

/-- The unkeyed phases are the two before key-up (R48, R276). -/
theorem Phase.keyed_eq_false_iff (p : Phase) : p.keyed = false ↔ p = .idle ∨ p = .waitChannelFree := by
  cases p <;> decide

end

/-- Settles O38: whether the packet is taken is whether the encoder has frames for it (R213). -/
theorem idleTakesOldestPacket : Obligations.IdleTakesOldestPacket := by
  intro s p queue hlive hphase hqueue
  rw [exec_txStep_of_queued hlive hphase hqueue]
  refine ⟨fun hfits => ?_, fun hlong => txIdle_of_tooLong hqueue ((airEncode_eq_none s.cfg p).mpr hlong)⟩
  have hsome : airEncode s.cfg p ≠ none := fun hnone =>
    absurd ((airEncode_eq_none s.cfg p).mp hnone) (Nat.not_lt_of_le hfits)
  obtain ⟨fs, hfs⟩ := Option.ne_none_iff_exists'.mp hsome
  exact ⟨fs, hfs, txIdle_of_frames hqueue hfs⟩

/-- Settles O39: the limit, where there is one, decides what a failed poll does. -/
theorem failedPollCounts : Obligations.FailedPollCounts := by
  intro s hlive hphase hallowed
  rw [exec_txStep_waitChannelFree hlive hphase, txWait_of_not_allowed hallowed]
  refine ⟨fun hnone => ?_, fun m hm hbelow => ?_, fun m hm hreached => ?_⟩
  · rw [pollFailed_of_below (by simp [hnone])]
  · rw [pollFailed_of_below (by simpa [hm] using hbelow)]
  · rw [pollFailed_of_limit hm hreached]; rfl

/-- Settles O40: the poll that reads the permission is the key-up. -/
theorem permittedPollKeysUp : Obligations.PermittedPollKeysUp := by
  intro s hlive hphase hallowed
  rw [exec_txStep_waitChannelFree hlive hphase, txWait_of_allowed hallowed]
  rfl

/-- Settles O41: silence of length zero is the empty list, which `emit` does not write. -/
theorem leadsWriteSilence : Obligations.LeadsWriteSilence := by
  intro s hlive
  refine ⟨fun hphase => ?_, fun hphase => ?_⟩
  · rw [exec_txStep_keyedLeadIn hlive hphase, emitThen_eq]
    simp only [silence_eq_nil]
    rfl
  · rw [exec_txStep_leadOut hlive hphase, emitThen_eq]
    simp only [silence_eq_nil]
    rfl

/-- Settles O42: the draw changes the queued answers only, so the write starts from the same transmit machine. -/
theorem modemAmblesWritten : Obligations.ModemAmblesWritten := by
  intro s hlive
  refine ⟨fun hphase => ?_, fun hphase => ?_⟩
  · rw [exec_txStep_preamble hlive hphase, emitThen_eq]; rfl
  · rw [exec_txStep_postamble hlive hphase, emitThen_eq]; rfl

/-- Settles O43: an empty answer counts as a write that went well, otherwise the write answers. -/
theorem frameEmitWritesNextFrame : Obligations.FrameEmitWritesNextFrame := by
  intro s u v f samples ok hlive hphase hframe hmod hsize hwrite
  obtain ⟨rfl, rfl⟩ := Prod.ext_iff.mp hmod
  obtain ⟨rfl, rfl⟩ := Prod.ext_iff.mp hwrite
  rw [exec_txStep_frameEmit hlive hphase, txFrame_eq hframe hsize, ← hphase]
  by_cases hsamples : (drawMod f s).1 = []
  · dsimp only
    rw [hsamples, emit_nil, if_pos rfl, if_pos rfl, frameDone_eq]
    rfl
  · dsimp only
    rw [emit_of_ne_nil hsamples, if_neg hsamples, frameDone_eq]
    rfl

/-- Settles O44: the phase depends on the answer drawn, and on nothing else. -/
theorem drainPolls : Obligations.DrainPolls := by
  intro s hlive hphase
  rw [exec_txStep_drain hlive hphase]
  rfl

/-- Settles O45: KEY_DOWN has no branch. -/
theorem keyDownUnkeys : Obligations.KeyDownUnkeys := by
  intro s hlive hphase
  rw [exec_txStep_keyDown hlive hphase]
  rfl

/-- Settles O46: the phases before key-up are the unkeyed ones. -/
theorem cancelDropsPackets : Obligations.CancelDropsPackets := by
  intro s hlive
  rw [exec_txCancel hlive, cancel_eq]
  cases hkeyed : s.tx.phase.keyed with
  | true =>
    have hafter : ¬ (s.tx.phase = .idle ∨ s.tx.phase = .waitChannelFree) := by
      rw [← Phase.keyed_eq_false_iff, hkeyed]; decide
    rw [if_pos rfl, if_neg hafter]
  | false =>
    rw [if_neg Bool.false_ne_true, if_pos ((Phase.keyed_eq_false_iff _).mp hkeyed)]
    rfl

end Sys2Proof.Machine

/-! SUPPORT. Only FRAME_EMIT can fault, and under the invariant it has a frame left (44_transmit_sequencer.md R268; log
entry 16). -/

namespace Sys2Proof.Machine

section
variable {s : State} {i : Instr} {f : Fault}

theorem next_ne_fault (t : State) : (Host.Outcome.next t : Result) ≠ .fault f := nofun

/-! The transmit machine. -/

theorem txIdle_ne_fault : txIdle s ≠ .fault f := by
  unfold txIdle
  split
  · simp
  · dsimp only
    split <;> simp

theorem txWait_ne_fault : txWait s ≠ .fault f := by
  unfold txWait
  split <;> simp

/-- FRAME_EMIT with a frame left writes it, or is refused for the modem's answer (R268, R360). -/
theorem txFrame_ne_fault (hindex : s.tx.index < s.tx.frames.length) : txFrame s ≠ .fault f := by
  unfold txFrame
  rw [List.getElem?_eq_getElem hindex]
  dsimp only
  split
  · simp
  · split <;> simp

/-- The index bounds of R45 leave FRAME_EMIT a frame. -/
theorem txPhase_ne_fault (hindex : indexOk s.tx) : txPhase s ≠ .fault f := by
  unfold txPhase
  split
  case h_1 => exact txIdle_ne_fault
  case h_2 => exact txWait_ne_fault
  case h_5 hphase => exact txFrame_ne_fault (by simpa only [indexOk, hphase] using hindex)
  all_goals exact next_ne_fault _

/-! The other instructions. -/

theorem execBoot_ne_fault (a : Args) : execBoot a s ≠ .fault f := by
  unfold execBoot
  split
  · rw [bootModem_eq]
    split
    · split <;> simp
    · simp
  · simp

theorem rxProcess_ne_fault (blk : List Sample) : rxProcess blk s ≠ .fault f := by
  unfold rxProcess
  split
  · simp
  · dsimp only
    split <;> simp

theorem exec_ne_fault_of_isReceive (hr : isReceive i) : exec i s ≠ .fault f := by
  obtain ⟨blk, env, he⟩ := exec_of_isReceive hr s
  rw [he]
  refine takeEvent_ne_fault ?_
  split
  · simp
  · exact rxProcess_ne_fault blk

theorem exec_ne_fault_of_wireByte {b : Byte} (hb : wireByte i = some b) : exec i s ≠ .fault f := by
  rw [exec_of_wireByte hb]
  exact takeEvent_ne_fault (by simp)

/-- A stopped block holds the event; in a running one the invariant bounds the index (R45, R53). -/
theorem exec_txStep_ne_fault (hs : Inv s) : exec .txStep s ≠ .fault f := by
  obtain ⟨hbooted, -, -, hrun⟩ := hs
  cases hfatal : s.fatal with
  | none =>
    obtain ⟨hindex, -⟩ := (hrun hfatal).transmit
    exact takeEvent_ne_fault (txPhase_ne_fault hindex)
  | some w =>
    have hheld : exec .txStep s = .next s := takeEvent_of_not_enabled hbooted (by simp [enabled, hfatal]) _
    simp [hheld]

theorem exec_ne_fault (hs : Inv s) (i : Instr) : exec i s ≠ .fault f := by
  cases i with
  | boot a => exact execBoot_ne_fault a
  | txStep => exact exec_txStep_ne_fault hs
  | txCancel => exact takeEvent_ne_fault (k := fun s => .next (cancel s)) (next_ne_fault _)
  | mayTx => exact takeEvent_ne_fault (k := fun s => .next (s.reply (.mayTx s.cs.allowed))) (next_ne_fault _)
  | pttStatus => exact takeEvent_ne_fault (k := fun s => .next (s.reply (.pttStatus s.pttKeyed))) (next_ne_fault _)
  | hostByte b => exact exec_ne_fault_of_wireByte rfl
  | hostDelim => exact exec_ne_fault_of_wireByte rfl
  | hostEsc => exact exec_ne_fault_of_wireByte rfl
  | hostEscaped b => exact exec_ne_fault_of_wireByte rfl
  | hostData b => exact exec_ne_fault_of_wireByte rfl
  | rxBlock blk => exact exec_ne_fault_of_isReceive (.inl ⟨blk, rfl⟩)
  | airSingle len rcv => exact exec_ne_fault_of_isReceive (.inr ⟨.single, len, rcv.rest, rcv.blk, rfl⟩)
  | airBegin fid rcv => exact exec_ne_fault_of_isReceive (.inr ⟨.begin1, fid, rcv.rest, rcv.blk, rfl⟩)
  | airFrag fid rcv => exact exec_ne_fault_of_isReceive (.inr ⟨.frag, fid, rcv.rest, rcv.blk, rfl⟩)
  | airEnd len rcv => exact exec_ne_fault_of_isReceive (.inr ⟨.end1, len, rcv.rest, rcv.blk, rfl⟩)

end

/-- Settles O59: a step that does not hold runs one instruction, and under the invariant none of them faults. -/
theorem noFaultUnderInvariant : Obligations.NoFaultUnderInvariant := by
  intro s f hs
  unfold step
  split
  · simp
  · split
    · simp
    · exact exec_ne_fault (inv_pending _ hs) _

end Sys2Proof.Machine

/-! SUPPORT. A packet that is transmitted without a failed poll, a failed write or a cancel (44_transmit_sequencer.md
R278): each TX_STEP as one equation, then a run of them. -/

namespace Sys2Proof.Machine

/-- The next `n` writes are answered ok (R361). -/
def writesOk (n : Nat) (s : State) : Prop := n ≤ s.env.write.length ∧ ∀ b ∈ s.env.write, b = true

/-- Audio actions go on the trace, each with one answer of the queue taken (R51, R361). -/
def State.played (s : State) (actions : List Action) : State := { s with
  trace := s.trace ++ actions
  env := { s.env with write := s.env.write.drop actions.length } }

/-- `emit(k, samples)` that went well, and the phase after it (R260). -/
def State.sent (s : State) (k : AudioKind) (samples : List Sample) (next : Phase) : State :=
  (s.played (written k samples)).setPhase next

/-- FRAME_EMIT over the next frames, with the modem's answers `mods` and every write ok (R268). -/
def State.framesSent (s : State) (mods : List (List Sample)) : State := { s with
  trace := s.trace ++ mods.flatMap (written .frame)
  env := { s.env with
    modulated := s.env.modulated.drop mods.length
    write := s.env.write.drop (mods.flatMap (written .frame)).length }
  tx := { s.tx with
    index := s.tx.index + mods.length
    phase := if s.tx.index + mods.length = s.tx.frames.length then .postamble else .frameEmit } }

/-- A packet is taken out of the queue, as `frames` (R262). -/
def State.taken (s : State) (frames : List Frame) (queue : List Packet) : State :=
  { s with tx := { phase := .waitChannelFree, frames := frames, index := 0, polls := 0, queue := queue } }

/-- The oldest answer of PRE() is taken (R267). -/
def State.preTaken (s : State) : State := { s with env := { s.env with pre := s.env.pre.tail } }

/-- The oldest answer of POST() is taken (R269). -/
def State.postTaken (s : State) : State := { s with env := { s.env with post := s.env.post.tail } }

/-- The oldest answer of MOD is taken (R268). -/
def State.modTaken (s : State) : State := { s with env := { s.env with modulated := s.env.modulated.tail } }

/-- The answers of `drained()` that are left (R271). -/
def State.setDrained (s : State) (answers : List Bool) : State :=
  { s with env := { s.env with drained := answers } }

/-- The lead-in and the preamble, with both writes ok (R266, R267). -/
def State.introSent (s : State) (pre : List Sample) : State :=
  (s.sent .leadIn (silence s.cfg.leadInSamples) .preamble).preTaken.sent .preamble pre .frameEmit

/-- The postamble and the lead-out, with both writes ok (R269, R270). -/
def State.outroSent (s : State) (post : List Sample) : State :=
  (s.postTaken.sent .postamble post .leadOut).sent .leadOut (silence s.cfg.leadOutSamples) .drain

/-- From IDLE to the first frame: the packet, the key-up, the lead-in and the preamble, all writes ok (R262, R265 to
R267). -/
def State.keyedFor (s : State) (frames : List Frame) (queue : List Packet) (pre : List Sample) : State := { s with
  trace := s.trace ++ [.ptt true] ++ written .leadIn (silence s.cfg.leadInSamples) ++ written .preamble pre
  pttKeyed := true
  env := { s.env with
    pre := s.env.pre.tail
    write := s.env.write.drop
      ((written .leadIn (silence s.cfg.leadInSamples)).length + (written .preamble pre).length) }
  tx := { phase := .frameEmit, frames := frames, index := 0, polls := 0, queue := queue } }

/-- From the last frame to IDLE: the postamble and the lead-out with all writes ok, the polls of DRAIN with the answers
`later` left, and the unkeying (R269 to R272). -/
def State.unkeyedAfter (s : State) (post : List Sample) (later : List Bool) : State := { s with
  trace := s.trace ++ written .postamble post ++ written .leadOut (silence s.cfg.leadOutSamples) ++ [.ptt false]
  pttKeyed := false
  env := { s.env with
    post := s.env.post.tail
    write := s.env.write.drop
      ((written .postamble post).length + (written .leadOut (silence s.cfg.leadOutSamples)).length)
    drained := later }
  tx := { phase := .idle, frames := [], index := 0, polls := 0, queue := s.tx.queue } }

section
variable {s t : State} {n : Nat}

/-- Being live is in two fields, which no TX_STEP writes. -/
theorem live_congr (hlive : live s) (hbooted : t.booted = s.booted) (hfatal : t.fatal = s.fatal) : live t :=
  ⟨hbooted.trans hlive.1, hfatal.trans hlive.2⟩

theorem writesOk_congr (h : writesOk n s) (hwrite : t.env.write = s.env.write) : writesOk n t := by
  rwa [writesOk, hwrite]

/-! Writes that are answered ok. -/

theorem length_written_le (k : AudioKind) (samples : List Sample) : (written k samples).length ≤ 1 := by
  unfold written
  split <;> simp

/-- A write takes at most one of the answers. -/
theorem writesOk_played (h : writesOk (n + 1) s) {actions : List Action} (hlen : actions.length ≤ 1) :
    writesOk n (s.played actions) := by
  obtain ⟨hcount, hok⟩ := h
  refine ⟨?_, fun b hb => hok b (List.mem_of_mem_drop hb)⟩
  simp only [State.played, List.length_drop]
  omega

theorem writesOk_sent (h : writesOk (n + 1) s) (k : AudioKind) (samples : List Sample) (next : Phase) :
    writesOk n (s.sent k samples next) :=
  writesOk_played h (length_written_le k samples)

/-- With an ok answer queued, `emit` succeeds, whether it asks for it or not. -/
theorem emit_of_writesOk (h : writesOk (n + 1) s) (k : AudioKind) (samples : List Sample) :
    emit k samples s = (true, s.played (written k samples)) := by
  obtain ⟨hcount, hok⟩ := h
  obtain ⟨b, rest, hwrite⟩ := List.exists_cons_of_length_pos (show 0 < s.env.write.length by omega)
  obtain rfl : b = true := hok b (by simp [hwrite])
  by_cases hsamples : samples = []
  · simp [hsamples, emit_nil, State.played, written]
  · rw [emit_of_ne_nil hsamples]
    simp [drawWrite, draw, hwrite, State.played, written, hsamples, State.act]

theorem emitThen_of_writesOk (h : writesOk (n + 1) s) (k : AudioKind) (samples : List Sample) (next : Phase) :
    emitThen k samples next s = s.sent k samples next := by
  rw [emitThen, emit_of_writesOk h]
  rfl

/-! The modem's answers, where they are queued. -/

theorem drawPre_of_head? {samples : List Sample} (h : s.env.pre.head? = some samples) :
    drawPre s = (samples, s.preTaken) := by
  obtain ⟨rest, hpre⟩ := List.head?_eq_some_iff.mp h
  simp [drawPre, draw, hpre, State.preTaken]

theorem drawPost_of_head? {samples : List Sample} (h : s.env.post.head? = some samples) :
    drawPost s = (samples, s.postTaken) := by
  obtain ⟨rest, hpost⟩ := List.head?_eq_some_iff.mp h
  simp [drawPost, draw, hpost, State.postTaken]

theorem drawMod_of_head? {samples : List Sample} (f : Frame) (h : s.env.modulated.head? = some samples) :
    drawMod f s = (samples, s.modTaken) := by
  obtain ⟨rest, hmod⟩ := List.head?_eq_some_iff.mp h
  simp [drawMod, draw, hmod, State.modTaken]

/-! One TX_STEP for each write that is answered ok. -/

theorem exec_txStep_leadIn_ok (hlive : live s) (hphase : s.tx.phase = .keyedLeadIn) (hwrites : writesOk (n + 1) s) :
    exec .txStep s = .next (s.sent .leadIn (silence s.cfg.leadInSamples) .preamble) := by
  rw [exec_txStep_keyedLeadIn hlive hphase, emitThen_of_writesOk hwrites]

theorem exec_txStep_preamble_ok {pre : List Sample} (hlive : live s) (hphase : s.tx.phase = .preamble)
    (hpre : s.env.pre.head? = some pre) (hwrites : writesOk (n + 1) s) :
    exec .txStep s = .next (s.preTaken.sent .preamble pre .frameEmit) := by
  have htaken : writesOk (n + 1) s.preTaken := writesOk_congr hwrites rfl
  rw [exec_txStep_preamble hlive hphase, drawPre_of_head? hpre, emitThen_of_writesOk htaken]

theorem exec_txStep_postamble_ok {post : List Sample} (hlive : live s) (hphase : s.tx.phase = .postamble)
    (hpost : s.env.post.head? = some post) (hwrites : writesOk (n + 1) s) :
    exec .txStep s = .next (s.postTaken.sent .postamble post .leadOut) := by
  have htaken : writesOk (n + 1) s.postTaken := writesOk_congr hwrites rfl
  rw [exec_txStep_postamble hlive hphase, drawPost_of_head? hpost, emitThen_of_writesOk htaken]

theorem exec_txStep_leadOut_ok (hlive : live s) (hphase : s.tx.phase = .leadOut) (hwrites : writesOk (n + 1) s) :
    exec .txStep s = .next (s.sent .leadOut (silence s.cfg.leadOutSamples) .drain) := by
  rw [exec_txStep_leadOut hlive hphase, emitThen_of_writesOk hwrites]

/-- FRAME_EMIT with a frame left and an admitted answer of the modem (R268). -/
theorem exec_txStep_frame_ok {samples : List Sample} (hlive : live s) (hphase : s.tx.phase = .frameEmit)
    (hindex : s.tx.index < s.tx.frames.length) (hmod : s.env.modulated.head? = some samples)
    (hsize : samples.length ≤ s.cfg.maxTxSamples) (hwrites : writesOk (n + 1) s) :
    exec .txStep s = .next (s.framesSent [samples]) := by
  have hframe := List.getElem?_eq_getElem hindex
  have hdraw := drawMod_of_head? s.tx.frames[s.tx.index] hmod
  have htaken : writesOk (n + 1) s.modTaken := writesOk_congr hwrites rfl
  rw [exec_txStep_frameEmit hlive hphase, txFrame_eq hframe (by rwa [hdraw]), hdraw, emit_of_writesOk htaken,
    if_pos rfl, frameDone_eq]
  simp [State.framesSent, State.played, State.modTaken, hphase]

/-! Runs of TX_STEPs. -/

theorem execAll_txStep_succ (h : exec .txStep s = .next t) (n : Nat) :
    execAll (List.replicate (n + 1) .txStep) s = execAll (List.replicate n .txStep) t := by
  rw [List.replicate_succ, execAll, h]

theorem framesSent_nil (hphase : s.tx.phase = if s.tx.index = s.tx.frames.length then .postamble else .frameEmit) :
    s.framesSent [] = s := by
  simp [State.framesSent, ← hphase]

theorem framesSent_framesSent (m : List Sample) (mods : List (List Sample)) :
    (s.framesSent [m]).framesSent mods = s.framesSent (m :: mods) := by
  simp [State.framesSent, Nat.add_assoc, Nat.add_comm]

/-- The next frames, each with an answer of the modem and a write that is answered ok, in as many TX_STEPs. -/
theorem execAll_framesSent {more : List (List Sample)} : ∀ (mods : List (List Sample)) (s : State), live s →
    s.tx.phase = (if s.tx.index = s.tx.frames.length then .postamble else .frameEmit) →
    s.tx.index + mods.length ≤ s.tx.frames.length → s.env.modulated = mods ++ more →
    (∀ m ∈ mods, m.length ≤ s.cfg.maxTxSamples) → writesOk (mods.length + n) s → ∀ steps,
    execAll (List.replicate (mods.length + steps) .txStep) s
        = execAll (List.replicate steps .txStep) (s.framesSent mods)
      ∧ writesOk n (s.framesSent mods)
  | [], s, _, hphase, _, _, _, hwrites, steps => by
    rw [framesSent_nil hphase, List.length_nil, Nat.zero_add]
    exact ⟨rfl, by simpa using hwrites⟩
  | m :: mods, s, hlive, hphase, hindex, hmod, hsize, hwrites, steps => by
    rw [List.length_cons] at hindex hwrites
    have hleft : s.tx.index < s.tx.frames.length := by omega
    rw [if_neg hleft.ne] at hphase
    rw [Nat.add_right_comm] at hwrites
    have hstep := exec_txStep_frame_ok hlive hphase hleft (by rw [hmod]; rfl) (hsize m (by simp)) hwrites
    have hwrites' : writesOk (mods.length + n) (s.framesSent [m]) :=
      writesOk_played (actions := [m].flatMap (written .frame)) hwrites (by simpa using length_written_le .frame m)
    have hindex' : (s.framesSent [m]).tx.index + mods.length ≤ s.tx.frames.length := by
      simp only [State.framesSent, List.length_singleton]
      omega
    have hmod' : (s.framesSent [m]).env.modulated = mods ++ more := by simp [State.framesSent, hmod]
    rw [List.length_cons, Nat.add_right_comm, execAll_txStep_succ hstep, ← framesSent_framesSent m mods]
    exact execAll_framesSent mods (s.framesSent [m]) (live_congr hlive rfl rfl) rfl hindex' hmod'
      (fun m' hm => hsize m' (List.mem_cons_of_mem m hm)) hwrites' steps

/-- DRAIN polls until `drained()` answers true (R271). -/
theorem execAll_drain {later : List Bool} : ∀ (d : Nat) (s : State), live s → s.tx.phase = .drain →
    s.env.drained = List.replicate d false ++ true :: later → ∀ steps,
    execAll (List.replicate (d + 1 + steps) .txStep) s
      = execAll (List.replicate steps .txStep) ((s.setDrained later).setPhase .keyDown)
  | 0, s, hlive, hphase, hdrained, steps => by
    have hstep : exec .txStep s = .next ((s.setDrained later).setPhase .keyDown) := by
      rw [exec_txStep_drain hlive hphase]
      simp [drawDrained, draw, hdrained, State.setDrained]
    rw [Nat.zero_add, Nat.add_comm, execAll_txStep_succ hstep]
  | d + 1, s, hlive, hphase, hdrained, steps => by
    have hstep : exec .txStep s = .next (s.setDrained (List.replicate d false ++ true :: later)) := by
      rw [exec_txStep_drain hlive hphase]
      simp [drawDrained, draw, hdrained, List.replicate_succ, State.setDrained]
    rw [Nat.add_right_comm, execAll_txStep_succ hstep]
    exact execAll_drain d (s.setDrained (List.replicate d false ++ true :: later)) (live_congr hlive rfl rfl) hphase rfl
      steps

/-- DRAIN and KEY_DOWN (R271, R272). -/
theorem execAll_drain_keyDown {d : Nat} {later : List Bool} (hlive : live s) (hphase : s.tx.phase = .drain)
    (hdrained : s.env.drained = List.replicate d false ++ true :: later) :
    execAll (List.replicate (d + 2) .txStep) s
      = .next ((((s.setDrained later).setPhase .keyDown).pttSet false).clearPacket .idle) := by
  have hunkey := exec_txStep_keyDown (s := (s.setDrained later).setPhase .keyDown) (live_congr hlive rfl rfl) rfl
  rw [execAll_drain d s hlive hphase hdrained 1, execAll_txStep_succ hunkey]
  rfl

/-! The run before, and the run after the frames. -/

theorem introSent_keyedUp (frames : List Frame) (queue : List Packet) (pre : List Sample) :
    (((s.taken frames queue).pttSet true).setPhase .keyedLeadIn).introSent pre = s.keyedFor frames queue pre := by
  simp [State.keyedFor, State.introSent, State.sent, State.played, State.taken, State.preTaken, State.setPhase,
    State.pttSet, State.act]

theorem outroSent_unkeyed (post : List Sample) (later : List Bool) :
    (((((s.outroSent post).setDrained later).setPhase .keyDown).pttSet false).clearPacket .idle)
      = s.unkeyedAfter post later := by
  simp [State.unkeyedAfter, State.outroSent, State.sent, State.played, State.postTaken, State.setDrained,
    State.setPhase, State.pttSet, State.act, State.clearPacket]

theorem execAll_introSent {pre : List Sample} (hlive : live s) (hphase : s.tx.phase = .keyedLeadIn)
    (hpre : s.env.pre.head? = some pre) (hwrites : writesOk (n + 2) s) (steps : Nat) :
    execAll (List.replicate (steps + 2) .txStep) s = execAll (List.replicate steps .txStep) (s.introSent pre)
      ∧ writesOk n (s.introSent pre) := by
  have hleadIn := exec_txStep_leadIn_ok hlive hphase hwrites
  have hwrites₁ := writesOk_sent hwrites .leadIn (silence s.cfg.leadInSamples) .preamble
  have hlive₁ : live (s.sent .leadIn (silence s.cfg.leadInSamples) .preamble) := live_congr hlive rfl rfl
  have hpreamble := exec_txStep_preamble_ok hlive₁ rfl hpre hwrites₁
  have htaken := writesOk_congr (t := (s.sent .leadIn (silence s.cfg.leadInSamples) .preamble).preTaken) hwrites₁ rfl
  refine ⟨?_, writesOk_sent htaken .preamble pre .frameEmit⟩
  rw [execAll_txStep_succ hleadIn, execAll_txStep_succ hpreamble, State.introSent]

theorem execAll_outroSent {post : List Sample} (hlive : live s) (hphase : s.tx.phase = .postamble)
    (hpost : s.env.post.head? = some post) (hwrites : writesOk 2 s) (steps : Nat) :
    execAll (List.replicate (steps + 2) .txStep) s = execAll (List.replicate steps .txStep) (s.outroSent post) := by
  have hpostamble := exec_txStep_postamble_ok hlive hphase hpost hwrites
  have htaken := writesOk_congr (t := s.postTaken) hwrites rfl
  have hwrites₁ := writesOk_sent htaken .postamble post .leadOut
  have hlive₁ : live (s.postTaken.sent .postamble post .leadOut) := live_congr hlive rfl rfl
  have hleadOut := exec_txStep_leadOut_ok hlive₁ rfl hwrites₁
  rw [execAll_txStep_succ hpostamble, execAll_txStep_succ hleadOut]
  rfl

/-- From IDLE to FRAME_EMIT in four TX_STEPs. -/
theorem execAll_keyedFor {p : Packet} {queue : List Packet} {frames : List Frame} {pre : List Sample} (hlive : live s)
    (hphase : s.tx.phase = .idle) (hqueue : s.tx.queue = p :: queue) (hframes : airEncode s.cfg p = some frames)
    (hallowed : s.cs.allowed = true) (hpre : s.env.pre.head? = some pre) (hwrites : writesOk (n + 2) s) (steps : Nat) :
    execAll (List.replicate (steps + 4) .txStep) s
        = execAll (List.replicate steps .txStep) (s.keyedFor frames queue pre)
      ∧ writesOk n (s.keyedFor frames queue pre) := by
  have htake : exec .txStep s = .next (s.taken frames queue) :=
    (exec_txStep_of_queued hlive hphase hqueue).trans (txIdle_of_frames hqueue hframes)
  have hkey : exec .txStep (s.taken frames queue)
      = .next (((s.taken frames queue).pttSet true).setPhase .keyedLeadIn) := by
    rw [exec_txStep_waitChannelFree (live_congr (t := s.taken frames queue) hlive rfl rfl) rfl]
    exact txWait_of_allowed hallowed
  rw [execAll_txStep_succ htake, execAll_txStep_succ hkey, ← introSent_keyedUp]
  exact execAll_introSent (s := ((s.taken frames queue).pttSet true).setPhase .keyedLeadIn)
    (live_congr hlive rfl rfl) rfl hpre (writesOk_congr hwrites rfl) steps

/-- From POSTAMBLE to IDLE in four TX_STEPs and one for each poll that answers false. -/
theorem execAll_unkeyedAfter {post : List Sample} {d : Nat} {later : List Bool} (hlive : live s)
    (hphase : s.tx.phase = .postamble) (hpost : s.env.post.head? = some post)
    (hdrained : s.env.drained = List.replicate d false ++ true :: later) (hwrites : writesOk 2 s) :
    execAll (List.replicate (d + 4) .txStep) s = .next (s.unkeyedAfter post later) := by
  rw [execAll_outroSent hlive hphase hpost hwrites (d + 2), ← outroSent_unkeyed]
  exact execAll_drain_keyDown (s := s.outroSent post) (live_congr hlive rfl rfl) rfl hdrained

/-- The encoder has at least one frame for every packet that it takes (R214, R215). -/
theorem airEncode_ne_nil {c : Cfg} {p : Packet} {frames : List Frame} (h : airEncode c p = some frames) :
    frames ≠ [] := by
  unfold airEncode at h
  split at h
  · cases h
  · split at h
    · cases h; exact List.cons_ne_nil _ _
    · cases h; exact List.cons_ne_nil _ _

end

/-- Settles O47: the run up to the frames, the frames, and the run after them. -/
theorem packetTransmissionTrace : Obligations.PacketTransmissionTrace := by
  intro s p queue fs pre post mods more d later hlive hphase hqueue hfs hallowed hpre hpost hmod hcount hsize hdrained
    hcovered hok
  have hwrites : writesOk (mods.length + 2 + 2) s := ⟨hcount ▸ hcovered, hok⟩
  obtain ⟨hbefore, hwrites⟩ := execAll_keyedFor hlive hphase hqueue hfs hallowed hpre hwrites
    (mods.length + (d + 4))
  have hlast : (s.keyedFor fs queue pre).tx.index + mods.length = fs.length := (Nat.zero_add _).trans hcount
  have hfirst : (s.keyedFor fs queue pre).tx.index ≠ fs.length := (List.length_pos_iff.mpr (airEncode_ne_nil hfs)).ne
  obtain ⟨hframes, hwrites⟩ := execAll_framesSent mods (s.keyedFor fs queue pre) (live_congr hlive rfl rfl)
    (if_neg hfirst).symm hlast.le hmod hsize hwrites (d + 4)
  have hafter := execAll_unkeyedAfter (s := (s.keyedFor fs queue pre).framesSent mods) (live_congr hlive rfl rfl)
    (if_pos hlast) hpost hdrained hwrites
  have hsteps : fs.length + d + 8 = mods.length + (d + 4) + 4 := by omega
  rw [hsteps, hbefore, hframes, hafter]
  exact ⟨_, rfl, rfl, rfl, rfl, rfl, rfl, rfl, rfl, rfl, rfl⟩

end Sys2Proof.Machine

/-! SUPPORT. What RX_BLOCK does where it is discarded, where the buffer is too short and where a pass of the loop runs
(45_receive_sequencer.md R301 to R305), what it writes to the host (R305, R307), and the frames of the host and transmit
paths (R308). -/

namespace Sys2Proof.Machine

section
variable {s t u v w : State} {blk : List Sample} {n : Nat} {r : Option Frame} {i : Instr} {b : Byte}

/-! RX_BLOCK, up to the first pass of its loop (R301 to R305). -/

theorem exec_rxBlock_of_keyed (hlive : live s) (hkeyed : s.pttKeyed = true) (blk : List Sample) :
    exec (.rxBlock blk) s = .next s :=
  (takeEvent_of_live (i := .rxBlock blk) (k := fun s => if s.pttKeyed then .next s else rxProcess blk s)
    hlive rfl).trans (if_pos hkeyed)

/-- A sensed block goes on as an empty one with the buffer that it lengthens (R302). -/
theorem exec_rxBlock_of_sensed (hlive : live s) (hkeyed : s.pttKeyed = false) (hu : csUpdate blk s = some u) :
    exec (.rxBlock blk) s = rxProcess [] { u with rxBuf := s.rxBuf ++ blk } := by
  rw [exec_rxBlock hlive hkeyed, rxProcess_of_sensed hu, csUpdate_rxBuf hu]

/-- NIN is drawn without a look at the buffer (R362). -/
theorem drawNin_of_buffer (hv : drawNin u = (n, v)) (buffer : List Sample) :
    drawNin { u with rxBuf := buffer } = (n, { v with rxBuf := buffer }) := by
  obtain ⟨rfl, rfl⟩ := Prod.ext_iff.mp hv
  rfl

/-- Sensing leaves the range that is admitted for NIN (R362). -/
theorem ninOk_of_sensed (hu : csUpdate blk s = some u) (hleast : 1 ≤ n) (hmost : n ≤ s.cfg.maxRxSamples) :
    ninOk u.cfg n = true := by
  rw [csUpdate_cfg hu, ninOk_iff]
  exact ⟨hleast, hmost⟩

/-- One pass by what DEMOD answers (R304, R305). -/
theorem demodulate_of_drawn (hw : drawDemod (s.rxBuf.take n) { s with rxBuf := s.rxBuf.drop n } = (r, w)) :
    demodulate n s = r.elim w fun frame => receiveFrame frame w := by
  rw [demodulate_eq, hw]
  cases r <;> rfl

/-- One pass neither stops the block nor keys the PTT, so the next RX_BLOCK is processed too (R308). -/
theorem exec_rxBlock_demodulate (hlive : live s) (hkeyed : s.pttKeyed = false) (n : Nat) :
    exec (.rxBlock []) (demodulate n s) = rxProcess [] (demodulate n s) := by
  have hbooted : (demodulate n s).booted = s.booted := by rw [demodulate_frame]
  have hfatal : (demodulate n s).fatal = s.fatal := by rw [demodulate_frame]
  have hptt : (demodulate n s).pttKeyed = s.pttKeyed := by rw [demodulate_frame]
  obtain ⟨hb, hf⟩ := hlive
  exact exec_rxBlock ⟨hbooted.trans hb, hfatal.trans hf⟩ (hptt.trans hkeyed) []

/-- Sensing and the draw of NIN change the gate and the queued answers only (R180, R362). -/
theorem sensed_drawn_frame (hu : csUpdate blk s = some u) (hv : drawNin u = (n, v)) :
    v = { s with cs := v.cs, env := v.env, drawn := v.drawn } := by
  obtain ⟨-, rfl⟩ := Prod.ext_iff.mp hv
  rw [drawNin_frame, (csUpdate_some hu).1]

/-! The output of one event (R305, R307). -/

/-- Only a processed block writes to the host, and it writes whole packets. -/
theorem Effect.hostOut (h : Effect s i t) (hb : ∀ a, i ≠ .boot a) :
    ∃ packets : List Packet, t.hostOut = s.hostOut ++ packets.flatMap hostEncode := by
  have unchanged {t : State} (hsame : t.hostOut = s.hostOut) :
      ∃ packets : List Packet, t.hostOut = s.hostOut ++ packets.flatMap hostEncode := ⟨[], by simp [hsame]⟩
  cases h with
  | boot _ => exact absurd rfl (hb _)
  | held _ _ => exact unchanged rfl
  | discarded _ _ => exact unchanged rfl
  | received _ _ _ h => exact h.hostOut
  | hostByte _ _ => exact unchanged (by rw [hostByteOp_frame])
  | txStep _ h => exact unchanged (by rw [h.frame])
  | txCancel _ => exact unchanged (by rw [cancel_eq])
  | query _ _ _ => exact unchanged rfl

/-! The host path and the transmit path (R308). -/

/-- An event that carries a host byte is held, which changes nothing, or the byte goes through the decoder. -/
theorem wireByte_next (hb : wireByte i = some b) (h : exec i s = .next t) : t = s ∨ t = hostByteOp b s := by
  rw [exec_of_wireByte hb] at h
  obtain ⟨-, ⟨-, -, hrun⟩ | ⟨-, hheld⟩⟩ := takeEvent_next h
  · injection hrun with hrun
    exact .inr hrun.symm
  · exact .inl hheld

/-- The host path writes the decoder, the queue and the log. -/
theorem wireByte_frame (hb : wireByte i = some b) (h : exec i s = .next t) :
    t = { s with hf := t.hf, tx := { s.tx with queue := t.tx.queue }, log := t.log } := by
  obtain rfl | rfl := wireByte_next hb h
  · rfl
  · exact hostByteOp_frame s b

/-- The transmit path writes the transmit machine, the PTT, the trace and the log, and takes answers. -/
theorem transmit_frame (hi : i = .txStep ∨ i = .txCancel) (h : exec i s = .next t) : t = { s with
    tx := t.tx, pttKeyed := t.pttKeyed, trace := t.trace, log := t.log, env := t.env, drawn := t.drawn } := by
  obtain rfl | rfl := hi
  · simp only [exec, execTxStep] at h
    obtain ⟨-, ⟨-, -, hrun⟩ | ⟨-, rfl⟩⟩ := takeEvent_next h
    · exact (txPhase_move hrun).frame
    · rfl
  · simp only [exec, execTxCancel] at h
    obtain ⟨-, ⟨-, -, hrun⟩ | ⟨-, rfl⟩⟩ := takeEvent_next h
    · injection hrun with hrun
      rw [← hrun, cancel_eq]
    · rfl

end

/-- Settles O49. -/
theorem keyedBlockDiscarded : Obligations.KeyedBlockDiscarded :=
  fun _ blk hlive hkeyed => exec_rxBlock_of_keyed hlive hkeyed blk

/-- Settles O51: the loop ends at its first draw of NIN. -/
theorem shortBufferWaits : Obligations.ShortBufferWaits := by
  intro s u v blk n hlive hkeyed hu hv hleast hmost hshort
  have hok : ninOk u.cfg n = true := ninOk_of_sensed hu hleast hmost
  have hdraw := drawNin_of_buffer hv (s.rxBuf ++ blk)
  rw [exec_rxBlock_of_sensed hlive hkeyed hu, rxProcess_nil_of_short, hdraw]
  · rw [hdraw]; exact hok
  · rw [hdraw, List.length_append]; exact hshort

/-- Settles O52: the loop makes one pass, and what is left of it is the loop of an empty block. -/
theorem chunkDemodulatedThenRest : Obligations.ChunkDemodulatedThenRest := by
  intro s u v w blk n r hlive hkeyed hu hv hleast hmost hlong hw
  have hok : ninOk u.cfg n = true := ninOk_of_sensed hu hleast hmost
  have hdraw := drawNin_of_buffer hv (s.rxBuf ++ blk)
  have hframe := sensed_drawn_frame hu hv
  have hlive' : live { v with rxBuf := s.rxBuf ++ blk } := by rw [hframe]; exact hlive
  have hkeyed' : v.pttKeyed = false := by rw [hframe]; exact hkeyed
  calc exec (.rxBlock blk) s = rxProcess [] { u with rxBuf := s.rxBuf ++ blk } := exec_rxBlock_of_sensed hlive hkeyed hu
    _ = rxProcess [] (demodulate n { v with rxBuf := s.rxBuf ++ blk }) := by
      apply rxProcess_nil_of_pass
      · rw [hdraw]; exact hok
      · rw [hdraw]; exact hlong
      · rw [hdraw]
    _ = exec (.rxBlock []) (demodulate n { v with rxBuf := s.rxBuf ++ blk }) :=
      (exec_rxBlock_demodulate hlive' hkeyed' n).symm
    _ = _ := by
      rw [demodulate_of_drawn (s := { v with rxBuf := s.rxBuf ++ blk }) hw]
      cases r <;> rfl

/-- Settles O53, from the effect of the instruction. -/
theorem hostOutputIsWholeFrames : Obligations.HostOutputIsWholeFrames :=
  fun _ _ _ h hb => (exec_effect h).hostOut hb

/-- Settles O55: neither path writes more than its frame says. -/
theorem hostAgentFrame : Obligations.HostAgentFrame := by
  intro i s t h
  refine ⟨fun hi => ?_, fun hi => ?_⟩
  · obtain ⟨b, hb⟩ : ∃ b, wireByte i = some b := by
      obtain rfl | rfl | ⟨b, rfl | rfl | rfl⟩ := hi
      all_goals exact ⟨_, rfl⟩
    rw [wireByte_frame hb h]
    exact ⟨rfl, rfl, rfl, rfl, rfl, rfl, rfl, rfl, rfl, rfl, rfl⟩
  · rw [transmit_frame hi h]
    exact ⟨rfl, rfl, rfl, rfl, rfl, rfl, rfl⟩

end Sys2Proof.Machine

/-! SUPPORT. How an instruction changes the PTT, what the guard does before BOOT and after it, and what BOOT reads and
how it fails (70_reset_and_hazards.md R370, R371, R375, R377, R380, R381, R389). -/

namespace Sys2Proof.Machine

section
variable {s t u : State} {i : Instr}

/-! The PTT by the effect of an instruction (R380, R381). -/

/-- A move keeps the PTT, keys it on a permission read or unkeys it in KEY_DOWN (R265, R272). -/
theorem TxMove.ptt (h : TxMove s t) : t.pttKeyed = s.pttKeyed
    ∨ (t.pttKeyed = true ∧ s.tx.phase = .waitChannelFree ∧ s.cs.allowed = true)
    ∨ (t.pttKeyed = false ∧ s.tx.phase = .keyDown) := by
  cases h with
  | moved hu hn => obtain ⟨k, samples, env, drawn, rfl⟩ := hu; exact .inl rfl
  | frameSent hu hp hi => obtain ⟨k, samples, env, drawn, rfl⟩ := hu; rw [frameDone_eq]; exact .inl rfl
  | failed hu hk => obtain ⟨k, samples, env, drawn, rfl⟩ := hu; exact .inl rfl
  | notDrained hu => obtain ⟨k, samples, env, drawn, rfl⟩ := hu; exact .inl rfl
  | keyedUp hp ha => exact .inr (.inl ⟨rfl, hp, ha⟩)
  | keyedDown hp => exact .inr (.inr ⟨rfl, hp⟩)
  | _ => exact .inl rfl

/-- The PTT is kept, keyed by a TX_STEP on a permission read, or unkeyed by KEY_DOWN or a BOOT. -/
theorem Effect.ptt (h : Effect s i t) : t.pttKeyed = s.pttKeyed
    ∨ (t.pttKeyed = true ∧ i = .txStep ∧ s.tx.phase = .waitChannelFree ∧ s.cs.allowed = true)
    ∨ (t.pttKeyed = false ∧ ((i = .txStep ∧ s.tx.phase = .keyDown) ∨ ∃ a, i = .boot a)) := by
  cases h with
  | boot h => exact .inr (.inr ⟨by rw [h.frame]; rfl, .inr ⟨_, rfl⟩⟩)
  | held _ _ => exact .inl rfl
  | discarded _ _ => exact .inl rfl
  | received _ _ _ h => exact .inl (by rw [h.frame])
  | hostByte _ _ => exact .inl (by rw [hostByteOp_frame])
  | txStep _ h =>
    obtain hsame | ⟨hkeyed, hphase, hallowed⟩ | ⟨hunkeyed, hphase⟩ := h.ptt
    · exact .inl hsame
    · exact .inr (.inl ⟨hkeyed, rfl, hphase, hallowed⟩)
    · exact .inr (.inr ⟨hunkeyed, .inl ⟨rfl, hphase⟩⟩)
  | txCancel _ => exact .inl (by rw [cancel_eq])
  | query _ _ _ => exact .inl rfl

/-! The guard before BOOT (R377) and after it (R389). -/

theorem takeEvent_of_not_booted (hbooted : s.booted = false) (k : State → Result) :
    takeEvent i s k = .refused .beforeBoot := by
  rw [takeEvent, hbooted, if_neg Bool.false_ne_true]

theorem wireByte_refused {b : Byte} (hb : wireByte i = some b) (hbooted : s.booted = false) :
    exec i s = .refused .beforeBoot := by
  rw [exec_of_wireByte hb, takeEvent_of_not_booted hbooted]

theorem receive_refused (hr : isReceive i) (hbooted : s.booted = false) : exec i s = .refused .beforeBoot := by
  obtain ⟨blk, env, hexec⟩ := exec_of_isReceive hr s
  rw [hexec, takeEvent_of_not_booted hbooted]

/-- In a live block only the event's own condition can hold it (R120). -/
theorem waits_of_ready (hlive : live s) (hready : ready i s = true) : waits i s = false := by
  have henabled : enabled i s = true := by simp [enabled, hlive.2, hready]
  cases i with
  | boot a => rfl
  | _ => simp [waits, henabled]

/-- An empty queue has room for the host agent, and any other gives TX_STEP its work (R145, R261). -/
theorem hostReady_or_txReady (hdepth : 1 ≤ s.cfg.txqDepth) : hostReady s = true ∨ txReady s = true := by
  by_cases hqueue : s.tx.queue = []
  · left
    have hroom : s.tx.queue.length < s.cfg.txqDepth := by rw [hqueue]; exact hdepth
    cases hpolicy : s.cfg.txqPolicy <;> simp [hostReady, hpolicy, hroom]
  · right
    simp [txReady, hqueue]

/-! The stages of BOOT, each by its queued answer (R371). -/

theorem bootModem_of_denied (h : s.env.modemOpen.head? = some false) :
    bootModem s = .next ((drawModemOpen s).2.stopFatal .modem) := by
  rw [bootModem_eq, drawModemOpen_of_head? h, if_neg Bool.false_ne_true]

theorem bootModem_of_opened (h : s.env.modemOpen.head? = some true)
    (hgeo : geometryOk (bootGeometry (drawModemOpen s).2).cfg = true) :
    bootModem s = .next (bootPtt (bootGeometry (drawModemOpen s).2)) := by
  rw [bootModem_eq, drawModemOpen_of_head? h, if_pos rfl, if_pos hgeo]

theorem drawPttAcquire_of_head? {ok : Bool} (h : s.env.pttAcquire.head? = some ok) : (drawPttAcquire s).1 = ok :=
  draw_of_head? _ _ h

theorem bootPtt_of_denied (h : s.env.pttAcquire.head? = some false) :
    bootPtt s = (drawPttAcquire s).2.stopFatal .ptt := by
  rw [bootPtt_eq, drawPttAcquire_of_head? h, if_neg Bool.false_ne_true]

theorem bootPtt_of_acquired (h : s.env.pttAcquire.head? = some true) :
    bootPtt s = bootAudioOut ((drawPttAcquire s).2.pttSet false) := by
  rw [bootPtt_eq, drawPttAcquire_of_head? h, if_pos rfl]

theorem drawAudioOut_of_head? {ok : Bool} (h : s.env.audioOut.head? = some ok) : (drawAudioOut s).1 = ok :=
  draw_of_head? _ _ h

/-- The audio output by its draw. -/
theorem bootAudioOut_eq (s : State) : bootAudioOut s =
    if (drawAudioOut s).1 then bootAudioIn (drawAudioOut s).2 else (drawAudioOut s).2.stopFatal .audioOut := rfl

theorem bootAudioOut_of_denied (h : s.env.audioOut.head? = some false) :
    bootAudioOut s = (drawAudioOut s).2.stopFatal .audioOut := by
  rw [bootAudioOut_eq, drawAudioOut_of_head? h, if_neg Bool.false_ne_true]

theorem bootAudioOut_of_acquired (h : s.env.audioOut.head? = some true) :
    bootAudioOut s = bootAudioIn (drawAudioOut s).2 := by
  rw [bootAudioOut_eq, drawAudioOut_of_head? h, if_pos rfl]

theorem drawAudioIn_of_head? {ok : Bool} (h : s.env.audioIn.head? = some ok) : (drawAudioIn s).1 = ok :=
  draw_of_head? _ _ h

/-- The audio input by its draw. -/
theorem bootAudioIn_eq (s : State) : bootAudioIn s =
    if (drawAudioIn s).1 then (drawAudioIn s).2 else (drawAudioIn s).2.stopFatal .audioIn := rfl

theorem bootAudioIn_of_denied (h : s.env.audioIn.head? = some false) :
    bootAudioIn s = (drawAudioIn s).2.stopFatal .audioIn := by
  rw [bootAudioIn_eq, drawAudioIn_of_head? h, if_neg Bool.false_ne_true]

/-- The geometry that the modem's queued answers give passes the check of R372 where they are in its range. -/
theorem bootGeometry_geometryOk {bits mtx mrx : Nat} (hbits : s.env.bitsPerFrame.head? = some bits)
    (hmtx : s.env.maxTx.head? = some mtx) (hmrx : s.env.maxRx.head? = some mrx) (hlow : 4 ≤ bits / 8)
    (hhigh : bits / 8 ≤ 66) (htx : 1 ≤ mtx) (hrx : 1 ≤ mrx) : geometryOk (bootGeometry s).cfg = true := by
  rw [bootGeometry_cfg_of_head? hbits hmtx hmrx, geometryOk_iff]
  exact ⟨hlow, hhigh, htx, hrx⟩

/-- The state in which a run begins takes the model's record of the environment from the past, and no more (R373; log
entry 18). -/
theorem bootState_congr (a : Args) (hpending : s.pending = u.pending) (henv : s.env = u.env)
    (hdrawn : s.drawn = u.drawn) : bootState a s = bootState a u := by
  rw [bootState, bootState, hpending, henv, hdrawn]

end

/-- Settles O48, from the effect of the instruction. -/
theorem pttChangesOnlyAsAllowed : Obligations.PttChangesOnlyAsAllowed := by
  intro i s t h
  obtain hsame | ⟨hkeyed, hallowed⟩ | ⟨hunkeyed, hcause⟩ := (exec_effect h).ptt
  · exact ⟨fun hs ht => (nomatch hs.symm.trans (hsame.symm.trans ht)),
      fun hs ht => (nomatch hs.symm.trans (hsame.symm.trans ht))⟩
  · exact ⟨fun _ _ => hallowed, fun _ ht => (nomatch hkeyed.symm.trans ht)⟩
  · exact ⟨fun _ ht => (nomatch hunkeyed.symm.trans ht), fun _ _ => hcause⟩

/-- Settles O6: every event but BOOT passes the guard, which refuses it. -/
theorem eventsBeforeBootRefused : Obligations.EventsBeforeBootRefused := by
  intro i s hbooted hi
  cases i with
  | boot a => exact absurd rfl (hi a)
  | txStep => exact takeEvent_of_not_booted (i := .txStep) hbooted txPhase
  | txCancel => exact takeEvent_of_not_booted (i := .txCancel) hbooted fun s => .next (cancel s)
  | mayTx => exact takeEvent_of_not_booted (i := .mayTx) hbooted fun s => .next (s.reply (.mayTx s.cs.allowed))
  | pttStatus =>
    exact takeEvent_of_not_booted (i := .pttStatus) hbooted fun s => .next (s.reply (.pttStatus s.pttKeyed))
  | hostByte _ | hostDelim | hostEsc | hostEscaped _ | hostData _ => exact wireByte_refused rfl hbooted
  | rxBlock blk => exact receive_refused (.inl ⟨blk, rfl⟩) hbooted
  | airSingle len rcv => exact receive_refused (.inr ⟨.single, len, rcv.rest, rcv.blk, rfl⟩) hbooted
  | airBegin fid rcv => exact receive_refused (.inr ⟨.begin1, fid, rcv.rest, rcv.blk, rfl⟩) hbooted
  | airFrag fid rcv => exact receive_refused (.inr ⟨.frag, fid, rcv.rest, rcv.blk, rfl⟩) hbooted
  | airEnd len rcv => exact receive_refused (.inr ⟨.end1, len, rcv.rest, rcv.blk, rfl⟩) hbooted

/-- Settles O9: RX_BLOCK and TX_CANCEL have no condition of their own, and the queue meets that of HOST_BYTE or that of
TX_STEP. -/
theorem someHostEventEnabled : Obligations.SomeHostEventEnabled := by
  intro s blk b hlive hdepth
  refine ⟨waits_of_ready hlive rfl, waits_of_ready hlive rfl, ?_⟩
  exact (hostReady_or_txReady hdepth).imp (waits_of_ready hlive) (waits_of_ready hlive)

/-- Settles O11: the boot passes the stages whose answer is true and ends at the first that is denied. -/
theorem failedAcquisitionIsFatal : Obligations.FailedAcquisitionIsFatal := by
  intro a s bits mtx mrx m p o hargs hlow hhigh htx hrx hmodem hbits hmtx hmrx hptt hout hin
  rw [exec_boot_of_argsOk s hargs]
  cases m with
  | false =>
    refine ⟨_, bootModem_of_denied (s := bootState a s) hmodem, ?_⟩
    rw [if_pos rfl]
    exact ⟨rfl, rfl, rfl, rfl⟩
  | true =>
    have hgeo := bootGeometry_geometryOk (s := (drawModemOpen (bootState a s)).2) hbits hmtx hmrx hlow hhigh htx hrx
    refine ⟨_, bootModem_of_opened (s := bootState a s) hmodem hgeo, ?_⟩
    rw [if_neg Bool.noConfusion]
    cases p with
    | false =>
      rw [bootPtt_of_denied (by exact hptt), if_pos rfl]
      exact ⟨rfl, rfl, rfl, rfl⟩
    | true =>
      rw [bootPtt_of_acquired (by exact hptt), if_neg Bool.noConfusion]
      cases o with
      | false =>
        rw [bootAudioOut_of_denied (by exact hout), if_pos rfl]
        exact ⟨rfl, rfl, rfl, rfl⟩
      | true =>
        rw [bootAudioOut_of_acquired (by exact hout), bootAudioIn_of_denied (by exact hin),
          if_neg Bool.noConfusion]
        exact ⟨rfl, rfl, rfl, rfl⟩

/-- Settles O13: the stages of BOOT run from the state in which the run begins, which is the same for both. -/
theorem bootForgetsThePast : Obligations.BootForgetsThePast := by
  intro a s u hpending henv hdrawn
  rw [exec_boot, exec_boot, execBoot, execBoot, bootState_congr a hpending henv hdrawn]

end Sys2Proof.Machine
